-- ==== Sys2Proof/Word.lean ====
section
/-!
DEFINITION. The word types of the machine (spec 00_scope.md R4, R6): bytes, 16-bit words and register numbers.
Every value of the machine is an unsigned bit string; nothing is signed.
-/

namespace Sys2Proof

/-- One byte: a general register, a memory cell, a sprite row (R4 `XLEN`, R30). -/
abbrev Byte := BitVec 8

/-- Sixteen bits: `pc`, `index`, a stack slot, an address, an instruction word (R4). -/
abbrev Word := BitVec 16

/-- The number of a general register, 0 to 15 (R10, R46). -/
abbrev Reg := Fin 16

/-- The register number of `VF`, the flag register (R4 `FLAG_REG`, R11). -/
abbrev VF : Reg := 15

end Sys2Proof
end

