-- ==== Sys2Proof/Syntax.lean ====
section
/-!
DEFINITION. The decoded instruction (spec 30_encoding.md R49, R55): one constructor per row of the opcode map, in its
order, carrying the operand fields of that row.
-/

namespace Sys2Proof

/-- The 35 instructions of R49. `x` and `y` are register numbers, `kk` an 8-bit immediate, `nnn` a 12-bit address, `n`
a 4-bit count (R46). -/
inductive Instr where
  /-- `00E0`: clear the display (R123). -/
  | cls
  /-- `00EE`: return (R78). -/
  | ret
  /-- `0nnn`: no operation (R76). -/
  | sys (nnn : BitVec 12)
  /-- `1nnn`: jump (R77). -/
  | jp (nnn : BitVec 12)
  /-- `2nnn`: call (R79). -/
  | call (nnn : BitVec 12)
  /-- `3xkk`: skip if `Vx = kk` (R81). -/
  | se (x : Reg) (kk : Byte)
  /-- `4xkk`: skip if `Vx ≠ kk` (R82). -/
  | sne (x : Reg) (kk : Byte)
  /-- `5xy0`: skip if `Vx = Vy` (R83). -/
  | se2 (x y : Reg)
  /-- `9xy0`: skip if `Vx ≠ Vy` (R84). -/
  | sne2 (x y : Reg)
  /-- `6xkk`: load immediate (R91). -/
  | ld (x : Reg) (kk : Byte)
  /-- `8xy0`: copy register (R92). -/
  | ld2 (x y : Reg)
  /-- `7xkk`: add immediate, no flag (R93). -/
  | add (x : Reg) (kk : Byte)
  /-- `8xy1` (R94). -/
  | or (x y : Reg)
  /-- `8xy2` (R95). -/
  | and (x y : Reg)
  /-- `8xy3` (R96). -/
  | xor (x y : Reg)
  /-- `8xy4`: add registers, flag (R97). -/
  | add2 (x y : Reg)
  /-- `8xy5`: `Vx - Vy`, flag (R98). -/
  | sub (x y : Reg)
  /-- `8xy7`: `Vy - Vx`, flag (R99). -/
  | subn (x y : Reg)
  /-- `8xy6`: shift right, `y` carried and ignored (R100, log 35). -/
  | shr (x y : Reg)
  /-- `8xyE`: shift left, `y` carried and ignored (R101, log 35). -/
  | shl (x y : Reg)
  /-- `Annn`: load `index` (R110). -/
  | ldi (nnn : BitVec 12)
  /-- `Bnnn`: jump to `nnn + V0` (R80). -/
  | jp2 (nnn : BitVec 12)
  /-- `Cxkk`: random byte and `kk` (R102). -/
  | rnd (x : Reg) (kk : Byte)
  /-- `Dxyn`: draw an `n`-row sprite (R124). -/
  | drw (x y : Reg) (n : BitVec 4)
  /-- `Ex9E`: skip if key `Vx` is down (R130). -/
  | skp (x : Reg)
  /-- `ExA1`: skip if key `Vx` is up (R131). -/
  | sknp (x : Reg)
  /-- `Fx07`: read the delay timer (R132). -/
  | ldt (x : Reg)
  /-- `Fx0A`: blocking key read (R133). -/
  | ldk (x : Reg)
  /-- `Fx15`: write the delay timer (R135). -/
  | lddt (x : Reg)
  /-- `Fx18`: write the sound timer (R136). -/
  | ldst (x : Reg)
  /-- `Fx1E`: add to `index` (R111). -/
  | addi (x : Reg)
  /-- `Fx29`: `index` to a glyph (R112). -/
  | ldf (x : Reg)
  /-- `Fx33`: decimal digits to memory (R113). -/
  | ldb (x : Reg)
  /-- `Fx55`: store `V0` to `Vx` (R115). -/
  | ldai (x : Reg)
  /-- `Fx65`: load `V0` to `Vx` (R116). -/
  | ldm (x : Reg)
  deriving DecidableEq, Repr

end Sys2Proof
end

