-- ==== Sys2Proof/WellFormed.lean ====
section
/-!
DEFINITION. Which instructions some word spells. Field widths are in the types of Syntax.lean; the one further
condition is the priority of spec 30_encoding.md R50: the words 00E0 and 00EE are CLS and RET, so no word spells
SYS 0x0E0 or SYS 0x0EE.
-/

namespace Sys2Proof

/-- `i` is spelled by some word under R50. -/
def Instr.wellFormed : Instr → Bool
  | .sys nnn => nnn != 0x0E0#12 && nnn != 0x0EE#12
  | .cls => true
  | .ret => true
  | .jp _ => true
  | .call _ => true
  | .se _ _ => true
  | .sne _ _ => true
  | .se2 _ _ => true
  | .sne2 _ _ => true
  | .ld _ _ => true
  | .ld2 _ _ => true
  | .add _ _ => true
  | .or _ _ => true
  | .and _ _ => true
  | .xor _ _ => true
  | .add2 _ _ => true
  | .sub _ _ => true
  | .subn _ _ => true
  | .shr _ _ => true
  | .shl _ _ => true
  | .ldi _ => true
  | .jp2 _ => true
  | .rnd _ _ => true
  | .drw _ _ _ => true
  | .skp _ => true
  | .sknp _ => true
  | .ldt _ => true
  | .ldk _ => true
  | .lddt _ => true
  | .ldst _ => true
  | .addi _ => true
  | .ldf _ => true
  | .ldb _ => true
  | .ldai _ => true
  | .ldm _ => true

/-- Well-formedness as a proposition. -/
abbrev Instr.WellFormed (i : Instr) : Prop := i.wellFormed = true

end Sys2Proof
end

