-- ==== Sys2Proof/Decode.lean ====
section
/-!
DEFINITION. Decoding (spec 30_encoding.md R45 to R53), total on any bytes and rejecting by name; after it the encoder,
written from the same map (R49), the mask and match columns of R49, and the assembler text of R54.
PRESUMED (log 4): the opcode numbers and the places of the fields are the spec's, which it took from general knowledge.
-/

namespace Sys2Proof

/-- Why a string of bytes is no instruction. -/
inductive DecodeError where
  /-- The word matches none of the 35 patterns (R50, R51). -/
  | unknownOpcode (w : Word)
  /-- Fewer than the two bytes every instruction has (R45). -/
  | truncated
  deriving DecidableEq, Repr

/-! ## Fields (R46) -/

/-- `op = w[15:12]`. -/
def fieldOp (w : Word) : BitVec 4 := w.extractLsb' 12 4
/-- `x = w[11:8]`. -/
def fieldX (w : Word) : Reg := ⟨(w.extractLsb' 8 4).toNat, (w.extractLsb' 8 4).isLt⟩
/-- `y = w[7:4]`. -/
def fieldY (w : Word) : Reg := ⟨(w.extractLsb' 4 4).toNat, (w.extractLsb' 4 4).isLt⟩
/-- `n = w[3:0]`. -/
def fieldN (w : Word) : BitVec 4 := w.extractLsb' 0 4
/-- `kk = w[7:0]`. -/
def fieldKK (w : Word) : Byte := w.extractLsb' 0 8
/-- `nnn = w[11:0]`. -/
def fieldNNN (w : Word) : BitVec 12 := w.extractLsb' 0 12

/-! ## The decode algorithm (R50) -/

/-- Top nibble 0: the two fixed words before `SYS` (R50, R53). -/
def decode0 (w : Word) : Instr :=
  if w = 0x00E0#16 then .cls else if w = 0x00EE#16 then .ret else .sys (fieldNNN w)

/-- Top nibble 8: the last nibble selects (R50). -/
def decode8 (w : Word) : Except DecodeError Instr :=
  match (fieldN w).toNat with
  | 0x0 => .ok (.ld2 (fieldX w) (fieldY w))
  | 0x1 => .ok (.or (fieldX w) (fieldY w))
  | 0x2 => .ok (.and (fieldX w) (fieldY w))
  | 0x3 => .ok (.xor (fieldX w) (fieldY w))
  | 0x4 => .ok (.add2 (fieldX w) (fieldY w))
  | 0x5 => .ok (.sub (fieldX w) (fieldY w))
  | 0x6 => .ok (.shr (fieldX w) (fieldY w))
  | 0x7 => .ok (.subn (fieldX w) (fieldY w))
  | 0xE => .ok (.shl (fieldX w) (fieldY w))
  | _ => .error (.unknownOpcode w)

/-- Top nibble E: the last byte selects (R50). -/
def decodeE (w : Word) : Except DecodeError Instr :=
  if fieldKK w = 0x9E#8 then .ok (.skp (fieldX w))
  else if fieldKK w = 0xA1#8 then .ok (.sknp (fieldX w))
  else .error (.unknownOpcode w)

/-- Top nibble F: the last byte selects (R50). -/
def decodeF (w : Word) : Except DecodeError Instr :=
  if fieldKK w = 0x07#8 then .ok (.ldt (fieldX w))
  else if fieldKK w = 0x0A#8 then .ok (.ldk (fieldX w))
  else if fieldKK w = 0x15#8 then .ok (.lddt (fieldX w))
  else if fieldKK w = 0x18#8 then .ok (.ldst (fieldX w))
  else if fieldKK w = 0x1E#8 then .ok (.addi (fieldX w))
  else if fieldKK w = 0x29#8 then .ok (.ldf (fieldX w))
  else if fieldKK w = 0x33#8 then .ok (.ldb (fieldX w))
  else if fieldKK w = 0x55#8 then .ok (.ldai (fieldX w))
  else if fieldKK w = 0x65#8 then .ok (.ldm (fieldX w))
  else .error (.unknownOpcode w)

/-- `decode(w)` of R50. DESIGN CHOICE (log 5), the spec's D9: `5xyN` and `9xyN` with `N ≠ 0` are unknown (R52). -/
def decodeWord (w : Word) : Except DecodeError Instr :=
  match (fieldOp w).toNat with
  | 0x0 => .ok (decode0 w)
  | 0x1 => .ok (.jp (fieldNNN w))
  | 0x2 => .ok (.call (fieldNNN w))
  | 0x3 => .ok (.se (fieldX w) (fieldKK w))
  | 0x4 => .ok (.sne (fieldX w) (fieldKK w))
  | 0x5 => if fieldN w = 0#4 then .ok (.se2 (fieldX w) (fieldY w)) else .error (.unknownOpcode w)
  | 0x6 => .ok (.ld (fieldX w) (fieldKK w))
  | 0x7 => .ok (.add (fieldX w) (fieldKK w))
  | 0x8 => decode8 w
  | 0x9 => if fieldN w = 0#4 then .ok (.sne2 (fieldX w) (fieldY w)) else .error (.unknownOpcode w)
  | 0xA => .ok (.ldi (fieldNNN w))
  | 0xB => .ok (.jp2 (fieldNNN w))
  | 0xC => .ok (.rnd (fieldX w) (fieldKK w))
  | 0xD => .ok (.drw (fieldX w) (fieldY w) (fieldN w))
  | 0xE => decodeE w
  | 0xF => decodeF w
  | _ => .error (.unknownOpcode w)

/-- The word whose high byte is `hi` and low byte `lo`: the byte at the lower address is the high one (R36). -/
def wordOfBytes (hi lo : Byte) : Word := hi ++ lo

/-- The two bytes of a word in address order, high byte first (R36). -/
def bytesOfWord (w : Word) : List Byte := [w.extractLsb' 8 8, w.extractLsb' 0 8]

/-- Decode the instruction at the head of a string of bytes and give the rest (R45). -/
def decodeBytes : List Byte → Except DecodeError (Instr × List Byte)
  | hi :: lo :: rest =>
    match decodeWord (wordOfBytes hi lo) with
    | .ok i => .ok (i, rest)
    | .error e => .error e
  | _ => .error .truncated

/-- The instruction the decoder reads from a row's bits: `w` is the 16-bit word as the opcode table numbers its bits,
the bits above `nbits` being 0, laid out in memory order. -/
def decodeTableWord (nbits w : Nat) : Option Instr :=
  match decodeBytes (bytesOfWord (BitVec.ofNat 16 (w % 2 ^ nbits))) with
  | .ok (i, _) => some i
  | .error _ => none

/-! ## The encoder (R47, R49, R55) -/

/-- The four bits of a register number. -/
def regBits (r : Reg) : BitVec 4 := BitVec.ofNat 4 r.val
/-- Format `NNN`: `op nnn`. -/
def packNNN (op : BitVec 4) (nnn : BitVec 12) : Word := op ++ nnn
/-- Format `XKK`, and `X` with its fixed last byte: `op x kk`. -/
def packXKK (op : BitVec 4) (x : Reg) (kk : Byte) : Word := (op ++ regBits x : BitVec 8) ++ kk
/-- Formats `XY` and `XYN`: `op x y n`. -/
def packXYN (op : BitVec 4) (x y : Reg) (n : BitVec 4) : Word :=
  (op ++ regBits x : BitVec 8) ++ (regBits y ++ n : BitVec 8)

/-- The word of an instruction: the pattern column of R49 with the fields filled in. -/
def encodeWord : Instr → Word
  | .cls => 0x00E0#16
  | .ret => 0x00EE#16
  | .sys nnn => packNNN 0x0#4 nnn
  | .jp nnn => packNNN 0x1#4 nnn
  | .call nnn => packNNN 0x2#4 nnn
  | .se x kk => packXKK 0x3#4 x kk
  | .sne x kk => packXKK 0x4#4 x kk
  | .se2 x y => packXYN 0x5#4 x y 0x0#4
  | .sne2 x y => packXYN 0x9#4 x y 0x0#4
  | .ld x kk => packXKK 0x6#4 x kk
  | .ld2 x y => packXYN 0x8#4 x y 0x0#4
  | .add x kk => packXKK 0x7#4 x kk
  | .or x y => packXYN 0x8#4 x y 0x1#4
  | .and x y => packXYN 0x8#4 x y 0x2#4
  | .xor x y => packXYN 0x8#4 x y 0x3#4
  | .add2 x y => packXYN 0x8#4 x y 0x4#4
  | .sub x y => packXYN 0x8#4 x y 0x5#4
  | .subn x y => packXYN 0x8#4 x y 0x7#4
  | .shr x y => packXYN 0x8#4 x y 0x6#4
  | .shl x y => packXYN 0x8#4 x y 0xE#4
  | .ldi nnn => packNNN 0xA#4 nnn
  | .jp2 nnn => packNNN 0xB#4 nnn
  | .rnd x kk => packXKK 0xC#4 x kk
  | .drw x y n => packXYN 0xD#4 x y n
  | .skp x => packXKK 0xE#4 x 0x9E#8
  | .sknp x => packXKK 0xE#4 x 0xA1#8
  | .ldt x => packXKK 0xF#4 x 0x07#8
  | .ldk x => packXKK 0xF#4 x 0x0A#8
  | .lddt x => packXKK 0xF#4 x 0x15#8
  | .ldst x => packXKK 0xF#4 x 0x18#8
  | .addi x => packXKK 0xF#4 x 0x1E#8
  | .ldf x => packXKK 0xF#4 x 0x29#8
  | .ldb x => packXKK 0xF#4 x 0x33#8
  | .ldai x => packXKK 0xF#4 x 0x55#8
  | .ldm x => packXKK 0xF#4 x 0x65#8

/-- The bytes of an instruction in address order (R36, R45). -/
def encode (i : Instr) : List Byte := bytesOfWord (encodeWord i)

/-- The `mask` and `match` columns of an instruction's row of R49. -/
def Instr.maskMatch : Instr → Word × Word
  | .cls => (0xFFFF#16, 0x00E0#16)
  | .ret => (0xFFFF#16, 0x00EE#16)
  | .sys _ => (0xF000#16, 0x0000#16)
  | .jp _ => (0xF000#16, 0x1000#16)
  | .call _ => (0xF000#16, 0x2000#16)
  | .se _ _ => (0xF000#16, 0x3000#16)
  | .sne _ _ => (0xF000#16, 0x4000#16)
  | .se2 _ _ => (0xF00F#16, 0x5000#16)
  | .sne2 _ _ => (0xF00F#16, 0x9000#16)
  | .ld _ _ => (0xF000#16, 0x6000#16)
  | .ld2 _ _ => (0xF00F#16, 0x8000#16)
  | .add _ _ => (0xF000#16, 0x7000#16)
  | .or _ _ => (0xF00F#16, 0x8001#16)
  | .and _ _ => (0xF00F#16, 0x8002#16)
  | .xor _ _ => (0xF00F#16, 0x8003#16)
  | .add2 _ _ => (0xF00F#16, 0x8004#16)
  | .sub _ _ => (0xF00F#16, 0x8005#16)
  | .subn _ _ => (0xF00F#16, 0x8007#16)
  | .shr _ _ => (0xF00F#16, 0x8006#16)
  | .shl _ _ => (0xF00F#16, 0x800E#16)
  | .ldi _ => (0xF000#16, 0xA000#16)
  | .jp2 _ => (0xF000#16, 0xB000#16)
  | .rnd _ _ => (0xF000#16, 0xC000#16)
  | .drw _ _ _ => (0xF000#16, 0xD000#16)
  | .skp _ => (0xF0FF#16, 0xE09E#16)
  | .sknp _ => (0xF0FF#16, 0xE0A1#16)
  | .ldt _ => (0xF0FF#16, 0xF007#16)
  | .ldk _ => (0xF0FF#16, 0xF00A#16)
  | .lddt _ => (0xF0FF#16, 0xF015#16)
  | .ldst _ => (0xF0FF#16, 0xF018#16)
  | .addi _ => (0xF0FF#16, 0xF01E#16)
  | .ldf _ => (0xF0FF#16, 0xF029#16)
  | .ldb _ => (0xF0FF#16, 0xF033#16)
  | .ldai _ => (0xF0FF#16, 0xF055#16)
  | .ldm _ => (0xF0FF#16, 0xF065#16)

/-! ## Assembler text (R54) -/

/-- `V0` to `V9`, `VA` to `VF`. -/
def regName (r : Reg) : String := "V" ++ String.singleton (Nat.digitChar r.val).toUpper

/-- A mnemonic followed by its operands, separated by commas. -/
def asmLine (mnemonic : String) (operands : List String) : String :=
  match operands with
  | [] => mnemonic
  | _ => mnemonic ++ " " ++ String.intercalate ", " operands

/-- `SHR` and `SHL` are written without `Vy` when `y = 0` (R54). -/
def shiftOperands (x y : Reg) : List String := if y = 0 then [regName x] else [regName x, regName y]

/-- The assembler text of an instruction in the syntax of R54, numerals in decimal. -/
def Instr.asm : Instr → String
  | .cls => asmLine "CLS" []
  | .ret => asmLine "RET" []
  | .sys nnn => asmLine "SYS" [toString nnn.toNat]
  | .jp nnn => asmLine "JP" [toString nnn.toNat]
  | .call nnn => asmLine "CALL" [toString nnn.toNat]
  | .se x kk => asmLine "SE" [regName x, toString kk.toNat]
  | .sne x kk => asmLine "SNE" [regName x, toString kk.toNat]
  | .se2 x y => asmLine "SE2" [regName x, regName y]
  | .sne2 x y => asmLine "SNE2" [regName x, regName y]
  | .ld x kk => asmLine "LD" [regName x, toString kk.toNat]
  | .ld2 x y => asmLine "LD2" [regName x, regName y]
  | .add x kk => asmLine "ADD" [regName x, toString kk.toNat]
  | .or x y => asmLine "OR" [regName x, regName y]
  | .and x y => asmLine "AND" [regName x, regName y]
  | .xor x y => asmLine "XOR" [regName x, regName y]
  | .add2 x y => asmLine "ADD2" [regName x, regName y]
  | .sub x y => asmLine "SUB" [regName x, regName y]
  | .subn x y => asmLine "SUBN" [regName x, regName y]
  | .shr x y => asmLine "SHR" (shiftOperands x y)
  | .shl x y => asmLine "SHL" (shiftOperands x y)
  | .ldi nnn => asmLine "LDI" [toString nnn.toNat]
  | .jp2 nnn => asmLine "JP2" [toString nnn.toNat]
  | .rnd x kk => asmLine "RND" [regName x, toString kk.toNat]
  | .drw x y n => asmLine "DRW" [regName x, regName y, toString n.toNat]
  | .skp x => asmLine "SKP" [regName x]
  | .sknp x => asmLine "SKNP" [regName x]
  | .ldt x => asmLine "LDT" [regName x]
  | .ldk x => asmLine "LDK" [regName x]
  | .lddt x => asmLine "LDDT" [regName x]
  | .ldst x => asmLine "LDST" [regName x]
  | .addi x => asmLine "ADDI" [regName x]
  | .ldf x => asmLine "LDF" [regName x]
  | .ldb x => asmLine "LDB" [regName x]
  | .ldai x => asmLine "LDAI" [regName x]
  | .ldm x => asmLine "LDM" [regName x]

end Sys2Proof
end

