-- ==== Sys2Proof/Config.lean ====
section
/-!
DEFINITION. What is fixed for the machine (spec 00_scope.md R4) and its one free value. The two periods and the
glyph table stand in Machine/Params.lean, beside the operations that use them.
-/

namespace Sys2Proof.Config

/-- `MEM_SIZE`: memory has the addresses 0x000 to 0xFFF (R4, R30). -/
def memSize : Nat := 0x1000

/-- `PROGRAM_BASE`: lowest writable and executable address, load address and reset `pc` (R4). -/
def programBase : Nat := 0x200

/-- `STACK_DEPTH`: slots of the call stack (R4, R13). -/
def stackDepth : Nat := 16

/-- The byte that the `k`-th execution of `RND` draws (R103). FREE VALUE: it has no body, so nothing can be proved
of it and a claim holds for every draw. DESIGN CHOICE (log 13): the draws are numbered. -/
opaque drawByte : Nat → Byte

end Sys2Proof.Config
end

