-- ==== Sys2Proof/Machine/State.lean ====
section
/-!
DEFINITION. The machine's state (spec 10_state.md R10 to R28), the causes of a fault (60_exceptions.md R140), the
refusals, and the state after reset (R27, R170).
-/

namespace Sys2Proof.Machine

/-- The intent of a memory range check (R31). -/
inductive Usage where
  | read
  | write
  | execute
  deriving DecidableEq, Repr

/-- The fault causes of R140. A raise of causes 1 to 10 puts the cause in `State.fault`, which halts the machine
(R141, log 9); a `step` of a halted machine answers `.fault` with that cause. Causes 11 and 12 are answered by the
program load. All are SAFE: the machine stops where the spec says it stops. -/
inductive Fault where
  /-- Cause 1, raised by the slot's decode: the word is no instruction (R51, R62). Safe. -/
  | unknownOpcode (w : Word)
  /-- Cause 2, raised by fetch, jumps, `DRW LDM LDB LDAI`: the validator rejects the range (R31). Safe. -/
  | invalidMemoryRange (usage : Usage) (base size : Word)
  /-- Cause 3, raised by `CALL` with a full stack (R79). Safe. -/
  | stackOverflow
  /-- Cause 4, raised by `RET` with an empty stack (R78). Safe. -/
  | stackUnderflow
  /-- Cause 5, raised by a jump to an odd target (R75). Safe. -/
  | misalignedJumpTarget (t : Word)
  /-- Cause 6, raised by the validator for size 0: `DRW` with `n = 0` (R31, R124). Safe. -/
  | invalidRangeSize
  /-- Cause 7, raised by `ADDI` past 0xFFFF (R111). Safe. -/
  | indexOverflow
  /-- Cause 8, raised by `LDF` with a digit above 15 (R112). Safe. -/
  | invalidGlyphDigit (d : Byte)
  /-- Cause 9, never raised: register numbers are 4-bit fields (R140, log 34). Safe. -/
  | invalidRegisterIndex
  /-- Cause 10, raised by `SKP` and `SKNP` with a key above 15 (R130). Safe. -/
  | invalidKeyIndex (k : Byte)
  /-- Cause 11, answered by the program load for an odd length (R163). Safe. -/
  | programOddLength (len : Nat)
  /-- Cause 12, answered by the program load for more than 3584 bytes (R163). Safe. -/
  | programTooLarge (len : Nat)
  deriving DecidableEq, Repr

/-- What the model declines. All are SAFE: nothing can be proved past one. -/
inductive Refusal where
  /-- An arm of `exec` without a meaning. Safe. -/
  | notModelled (mnemonic : String)
  /-- A slot whose `pc` is odd: the machine defines no behaviour for it (R37; no run reaches it). Safe. -/
  | oddProgramCounter
  /-- `step(delta_ms)` with `delta_ms > 0xFFFFFFF0` (R150). Safe. -/
  | deltaTooLarge
  /-- A load of no bytes (R163). Safe. -/
  | emptyProgram
  /-- A second load, or a load after stepping (R163). Safe. -/
  | loadTooLate
  /-- `set_key_pressed` with a key above 15 (R164). Safe. -/
  | keyOutOfRange
  /-- `read_pixel` outside 64 by 32 (R166). Safe. -/
  | pixelOutOfRange
  deriving DecidableEq, Repr

/-- The general registers `V[0]` to `V[15]` (R10). -/
abbrev Regs := Vector Byte 16

/-- Memory: the cells that differ from the reset contents, addresses strictly rising (log 31). -/
abbrev Memory := List Host.Cell

/-- The display surface: 32 rows of 8 bytes (R23). -/
abbrev Display := Vector (Vector Byte 8) 32

/-- The Machine State (R10 to R26). The last two fields are the model's own. -/
structure State where
  /-- `V[0]` to `V[15]`; `V[15]` is `VF` (R10, R11). -/
  v : Regs
  /-- `pc`, the address of the instruction being executed (R12). -/
  pc : Word
  /-- `sp`, the number of return addresses held, 0 to 16 (R13, log 25). -/
  sp : Fin 17
  /-- `stack`, 16 slots, not in memory (R13). -/
  stack : Vector Word 16
  /-- `index` (R14). -/
  index : Word
  /-- `delay_timer` (R15). -/
  delayTimer : Byte
  /-- `sound_timer` (R16). -/
  soundTimer : Byte
  /-- `delay_accumulator`, milliseconds not yet ticked (R17). -/
  delayAccumulator : BitVec 32
  /-- `instruction_accumulator`, milliseconds not yet turned into slots (R18). -/
  instructionAccumulator : BitVec 32
  /-- `memory` (R19). -/
  memory : Memory
  /-- `key_state`, bit `k` is key `k` (R20). -/
  keyState : Word
  /-- `key_state_prev`, the snapshot of the last slot (R21). -/
  keyStatePrev : Word
  /-- `is_waiting_for_key` (R22). -/
  isWaitingForKey : Bool
  /-- `display` (R23). -/
  display : Display
  /-- `halted` and `fault` (R24): `some c` is halted with cause `c`, `none` is not halted. -/
  fault : Option Fault
  /-- MODEL's own: how many bytes `RND` has drawn (log 13). -/
  draws : Nat
  /-- MODEL's own: no program loaded and nothing stepped yet (R163, log 22). -/
  loadable : Bool
  deriving DecidableEq, Repr

/-- `halted` (R24). -/
def State.halted (s : State) : Bool := s.fault.isSome

/-- The state after reset (R27, R170): `pc = 0x200`, memory at its reset contents, display dark.
DESIGN CHOICE (log 1), the spec's D3: every other element is zero or false. -/
def State.reset : State where
  v := Vector.replicate 16 0
  pc := 0x200
  sp := 0
  stack := Vector.replicate 16 0
  index := 0
  delayTimer := 0
  soundTimer := 0
  delayAccumulator := 0
  instructionAccumulator := 0
  memory := []
  keyState := 0
  keyStatePrev := 0
  isWaitingForKey := false
  display := Vector.replicate 32 (Vector.replicate 8 0)
  fault := none
  draws := 0
  loadable := true

end Sys2Proof.Machine
end

