-- ==== Sys2Proof/Machine/Params.lean ====
section
/-!
DEFINITION. The parameters of spec 00_scope.md R4 that the spec itself decided, the glyph table (R25, R171) and the
fault code numbers (R140). They stand here, not in Config.lean, so that a test can mend them.
-/

namespace Sys2Proof.Machine

/-- `DELAY_PERIOD_MS`, the integer quotient 1000 / 60. DESIGN CHOICE (log 19), the spec's D2. -/
def delayPeriodMs : Nat := 16

/-- `INSTR_PERIOD_MS`, the quotient 1000 / 500. DESIGN CHOICE (log 19), the spec's D2. -/
def instrPeriodMs : Nat := 2

/-- The largest `delta_ms` a host may report (R150). DESIGN CHOICE (log 21), the spec's D17. -/
def maxDeltaMs : Nat := 0xFFFFFFF0

/-- The 80 bytes of the hexadecimal font, glyph `d` at `5 * d`, top row first (R171).
PRESUMED (log 2): the spec takes the values from general knowledge, its G2. -/
def glyphBytes : List Byte :=
  [0xF0, 0x90, 0x90, 0x90, 0xF0] ++ [0x20, 0x60, 0x20, 0x20, 0x70] ++
  [0xF0, 0x10, 0xF0, 0x80, 0xF0] ++ [0xF0, 0x10, 0xF0, 0x10, 0xF0] ++
  [0x90, 0x90, 0xF0, 0x10, 0x10] ++ [0xF0, 0x80, 0xF0, 0x10, 0xF0] ++
  [0xF0, 0x80, 0xF0, 0x90, 0xF0] ++ [0xF0, 0x10, 0x20, 0x40, 0x40] ++
  [0xF0, 0x90, 0xF0, 0x90, 0xF0] ++ [0xF0, 0x90, 0xF0, 0x10, 0xF0] ++
  [0xF0, 0x90, 0xF0, 0x90, 0x90] ++ [0xE0, 0x90, 0xE0, 0x90, 0xE0] ++
  [0xF0, 0x80, 0x80, 0x80, 0xF0] ++ [0xE0, 0x90, 0x90, 0x90, 0xE0] ++
  [0xF0, 0x80, 0xF0, 0x80, 0xF0] ++ [0xF0, 0x80, 0xF0, 0x80, 0x80]

/-- `glyph_table_offsets[d]` (R25). DESIGN CHOICE (log 3), the spec's D15: contiguous, in digit order. -/
def glyphTableOffset (d : Fin 16) : Word := BitVec.ofNat 16 (5 * d.val)

/-- The label number of a cause (R140). -/
def faultCode : Fault → Nat
  | .unknownOpcode _ => 1
  | .invalidMemoryRange _ _ _ => 2
  | .stackOverflow => 3
  | .stackUnderflow => 4
  | .misalignedJumpTarget _ => 5
  | .invalidRangeSize => 6
  | .indexOverflow => 7
  | .invalidGlyphDigit _ => 8
  | .invalidRegisterIndex => 9
  | .invalidKeyIndex _ => 10
  | .programOddLength _ => 11
  | .programTooLarge _ => 12

end Sys2Proof.Machine
end

