-- ==== Sys2Proof/Machine/Ops.lean ====
section
/-!
DEFINITION. The named operations over memory, registers, stack and display, the address validator and the checked
accesses (spec 20_memory.md), and raising a fault (60_exceptions.md R141): the machine has no trap and so no return
from one (R145).
-/

namespace Sys2Proof.Machine

/-- What an instruction's meaning answers. -/
abbrev Answer := Host.Outcome State Fault Refusal

/-! ## Raising a fault (R141, R142) -/

/-- The state a raise leaves: halted with the cause, nothing else written (R141, R142). -/
def State.halt (c : Fault) (s : State) : State := { s with fault := some c }

/-- `raise c` (R7, R141). DESIGN CHOICE (log 9): the halted machine is a next state. -/
def raise (c : Fault) (s : State) : Answer := .next (s.halt c)

/-- Go on with the value of a check that passed, or raise its fault. -/
def orRaise {α : Type} (r : Except Fault α) (s : State) (k : α → Answer) : Answer :=
  match r with
  | .ok a => k a
  | .error c => raise c s

/-! ## Memory without a check (R30) -/

/-- What an address that memory does not list reads as: the reset contents (R27, R39, R171). -/
def resetByte (a : Nat) : Byte := glyphBytes.getD a 0

/-- `mem[a]` (R30). -/
def Memory.readByte : Memory → Nat → Byte
  | [], a => resetByte a
  | (k, b) :: m, a => if k = a then b else Memory.readByte m a

/-- List `b` at `a`, keeping the addresses rising. -/
def Memory.putCell (a : Nat) (b : Byte) : Memory → Memory
  | [] => [(a, b)]
  | (k, c) :: m =>
    if a < k then (a, b) :: (k, c) :: m
    else if a = k then (a, b) :: m
    else (k, c) :: Memory.putCell a b m

/-- Stop listing `a`. -/
def Memory.dropCell (a : Nat) : Memory → Memory
  | [] => []
  | (k, c) :: m => if k = a then m else (k, c) :: Memory.dropCell a m

/-- `mem[a] <- b` (R30), in the canonical form; an address outside memory names no byte and writes none. -/
def Memory.writeByte (m : Memory) (a : Nat) (b : Byte) : Memory :=
  if a < Config.memSize then
    if b = resetByte a then Memory.dropCell a m else Memory.putCell a b m
  else m

/-- The `n` bytes from `a`, lowest address first (R33). -/
def Memory.readBytes (m : Memory) (a : Nat) : Nat → List Byte
  | 0 => []
  | n + 1 => m.readByte a :: Memory.readBytes m (a + 1) n

/-- Store bytes from `a` up, lowest address first (R34). -/
def Memory.writeBytes (m : Memory) (a : Nat) : List Byte → Memory
  | [] => m
  | b :: bs => Memory.writeBytes (m.writeByte a b) (a + 1) bs

/-- The canonical form above the address `lo`: addresses strictly rising and inside memory, no cell equal to the reset
contents. -/
def Memory.wfFrom (lo : Nat) : Memory → Bool
  | [] => true
  | (k, b) :: m =>
    decide (lo ≤ k) && decide (k < Config.memSize) && decide (b ≠ resetByte k) && Memory.wfFrom (k + 1) m

/-- The canonical form of memory (log 31). -/
def Memory.wf (m : Memory) : Bool := Memory.wfFrom 0 m

/-! ## The address validator and the checked accesses (R31 to R35) -/

/-- `is_valid_range(base, size, usage)` (R31). -/
def isValidRange (base size : Word) (usage : Usage) : Except Fault Bool :=
  if size = 0 then .error .invalidRangeSize
  else
    let last := base + size - 1
    if last < base then .ok false
    else if 0xFFF#16 < last then .ok false
    else if (usage = .write ∨ usage = .execute) ∧ base < 0x200#16 then .ok false
    else .ok true

/-- The validator as a check: `InvalidRangeSize`, `InvalidMemoryRange`, or passed (R33, R34, R35). -/
def checkRange (usage : Usage) (base size : Word) : Except Fault Unit :=
  match isValidRange base size usage with
  | .error c => .error c
  | .ok false => .error (.invalidMemoryRange usage base size)
  | .ok true => .ok ()

/-- `MemRead(addr, n)` (R33). -/
def memRead (addr : Word) (n : Nat) (s : State) : Except Fault (List Byte) :=
  match checkRange .read addr (BitVec.ofNat 16 n) with
  | .ok () => .ok (s.memory.readBytes addr.toNat n)
  | .error c => .error c

/-- `MemWrite(addr, n, bytes)`, `n` the number of bytes: the memory it leaves (R34). -/
def memWrite (addr : Word) (bytes : List Byte) (s : State) : Except Fault Memory :=
  match checkRange .write addr (BitVec.ofNat 16 bytes.length) with
  | .ok () => .ok (s.memory.writeBytes addr.toNat bytes)
  | .error c => .error c

/-- `CheckJump(t)`: even, then two executable bytes (R75). DESIGN CHOICE (log 8), the spec's D6 and D7. -/
def checkJump (t : Word) : Except Fault Unit :=
  if t.toNat % 2 = 1 then .error (.misalignedJumpTarget t) else checkRange .execute t 2

/-! ## Register and field updates -/

/-- `V[r] <- b` (R10). -/
def State.setV (s : State) (r : Reg) (b : Byte) : State := { s with v := s.v.set r.val b }
/-- All sixteen registers at once. -/
def State.setRegs (s : State) (v : Regs) : State := { s with v := v }
/-- `pc <- t` (R12). -/
def State.setPc (s : State) (t : Word) : State := { s with pc := t }
/-- `index <- a` (R14). -/
def State.setIndex (s : State) (a : Word) : State := { s with index := a }
/-- `delay_timer <- b` (R15). -/
def State.setDelayTimer (s : State) (b : Byte) : State := { s with delayTimer := b }
/-- `sound_timer <- b` (R16). -/
def State.setSoundTimer (s : State) (b : Byte) : State := { s with soundTimer := b }
/-- The memory after a checked store (R34). -/
def State.setMemory (s : State) (m : Memory) : State := { s with memory := m }
/-- `is_waiting_for_key <- w` (R22). -/
def State.setWaiting (s : State) (w : Bool) : State := { s with isWaitingForKey := w }
/-- The display after a draw or a clear (R23). -/
def State.setDisplay (s : State) (d : Display) : State := { s with display := d }
/-- Count one draw of a random byte (R103, log 13). -/
def State.countDraw (s : State) : State := { s with draws := s.draws + 1 }

/-! ## The call stack (R13, R78, R79) -/

/-- `stack[sp] <- a; sp <- sp + 1`, called with `sp < 16` (R79). -/
def State.push (s : State) (a : Word) : State :=
  { s with stack := s.stack.setIfInBounds s.sp.val a, sp := s.sp + 1 }

/-- `stack[sp - 1]`, called with `sp > 0` (R78). -/
def State.top (s : State) : Word := s.stack[s.sp.val - 1]'(by omega)

/-- `sp <- sp - 1`, called with `sp > 0`; the slot keeps its value (R78). -/
def State.pop (s : State) : State := { s with sp := s.sp - 1 }

/-! ## The display surface (R120 to R122) -/

/-- `read_pixel(x, y)`: bit `x mod 8` of `display[y][x div 8]` (R120, R122). -/
def Display.readPixel (d : Display) (x : Fin 64) (y : Fin 32) : Bool :=
  (d[y.val][x.val / 8]'(by omega)).getLsbD (x.val % 8)

/-- A byte with bit `i` set to `b`. -/
def withBit (byte : Byte) (i : Nat) (b : Bool) : Byte :=
  if b then byte ||| (1#8 <<< i) else byte &&& ~~~(1#8 <<< i)

/-- `write_pixel(x, y, b)` (R121, R122). -/
def Display.writePixel (d : Display) (x : Fin 64) (y : Fin 32) (b : Bool) : Display :=
  let row := d[y.val]
  d.set y.val (row.set (x.val / 8) (withBit (row[x.val / 8]'(by omega)) (x.val % 8) b) (by omega))

/-- Every pixel dark (R123). -/
def Display.dark : Display := Vector.replicate 32 (Vector.replicate 8 0)

end Sys2Proof.Machine
end

