-- ==== Sys2Proof/Machine/Operands.lean ====
section
/-!
DEFINITION. The operand forms of the instructions (spec 30_encoding.md R48, 43_index_memory.md R114): a register, an
address, the register list of LDAI and LDM, the digits of LDB, a key number, a key edge, a sprite bit.
-/

namespace Sys2Proof.Machine

/-- `V[r]` (R10). -/
def State.reg (s : State) (r : Reg) : Byte := s.v[r.val]

/-- `zext_16(nnn)` (R48). -/
def addressOf (nnn : BitVec 12) : Word := nnn.setWidth 16

/-- `zext_16(b)`. -/
def widen (b : Byte) : Word := b.setWidth 16

/-- The target of `JP2`: `nnn + V0`, not reduced modulo 4096 (R80). -/
def offsetTarget (nnn : BitVec 12) (s : State) : Word := addressOf nnn + widen (s.reg 0)

/-- The return address: the slot holds the address of the `CALL` itself (R78, R79). -/
def returnTarget (s : State) : Word := s.top + 2

/-- `V[0], ..., V[x]` (R115): the field `x` bounds the list, not `V[x]`. -/
def State.regsUpTo (s : State) (x : Reg) : List Byte := s.v.toList.take (x.val + 1)

/-- `V[i], V[i+1], ... <- bytes` (R116). -/
def putRegs : List Byte → Nat → Regs → Regs
  | [], _, v => v
  | b :: bs, i, v => putRegs bs (i + 1) (v.setIfInBounds i b)

/-- Hundreds, tens and ones of a byte (R113). -/
def decimalDigits (b : Byte) : List Byte := [b / 100, (b / 10) % 10, b % 10]

/-- Key `k` is down, `k` at most 15 (R20, R130). -/
def State.keyDown (s : State) (k : Byte) : Bool := s.keyState.getLsbD k.toNat

/-- `key_state & ~key_state_prev`: keys that went down since the last snapshot (R133). -/
def State.keyEdges (s : State) : Word := s.keyState &&& ~~~s.keyStatePrev

/-- The least `k` in 0 to 15 whose bit is 1 (R133). -/
def lowestKey (edges : Word) : Option (Fin 16) := (List.finRange 16).find? fun k => edges.getLsbD k.val

/-- The sprite bit for column offset `c`: bit 7 is the leftmost pixel (R124, R125). -/
def spriteBit (row : Byte) (c : Nat) : Bool := row.getLsbD (7 - c)

/-- The display column of a sprite column: the sum is reduced modulo 64 (R124). -/
def columnOf (x0 : Byte) (c : Nat) : Fin 64 := ⟨(x0.toNat + c) % 64, Nat.mod_lt _ (by decide)⟩

/-- The display row of a sprite row: the sum is reduced modulo 32 (R124). -/
def rowOf (y0 : Byte) (r : Nat) : Fin 32 := ⟨(y0.toNat + r) % 32, Nat.mod_lt _ (by decide)⟩

end Sys2Proof.Machine
end

