-- ==== Sys2Proof/Machine/Flags.lean ====
section
/-!
DEFINITION. Every flag the machine computes (spec 10_state.md R11): the value 0 or 1 that an instruction writes to VF.
The order in which result and flag are written is the instruction's (42_alu.md R90).
-/

namespace Sys2Proof.Machine

/-- The byte 1 or 0. -/
def flagByte (b : Bool) : Byte := if b then 1 else 0

/-- `ADD2`: 0 if the 8-bit result is greater than `Vx` before, else 1 (R97).
DESIGN CHOICE (log 11), the spec's C1 and D11. -/
def addFlag (a r : Byte) : Byte := flagByte (!decide (a < r))

/-- `SUB`: 1 if minuend > subtrahend, else 0 (R98); `SUBN` is the same with the operands exchanged (R99). -/
def notBorrowFlag (minuend subtrahend : Byte) : Byte := flagByte (decide (subtrahend < minuend))

/-- `SHR`: bit 0 (R100). -/
def lowBitFlag (a : Byte) : Byte := a &&& 1

/-- `SHL`: bit 7 (R101). -/
def highBitFlag (a : Byte) : Byte := (a >>> 7) &&& 1

/-- `DRW`: 1 if a lit pixel was erased (R124, R126). DEDUCED (log 14): also when the sprite is drawn again. -/
def collisionFlag (erased : Bool) : Byte := flagByte erased

end Sys2Proof.Machine
end

