-- ==== Sys2Proof/Machine/Alu.lean ====
section
/-!
DEFINITION. Register load, arithmetic, logic, shift and random instructions (spec 42_alu.md): LD LD2 ADD OR AND XOR
ADD2 SUB SUBN SHR SHL RND. Operands are read from the state before any write; the writes stand in the order of R90.
-/

namespace Sys2Proof.Machine

/-- Result, then flag: with `x = 15` the flag stays (R90). DESIGN CHOICE (log 12), the spec's D10. -/
def resultThenFlag (x : Reg) (result flag : Byte) (s : State) : Answer := .next ((s.setV x result).setV VF flag)

/-- Flag, then result: with `x = 15` the result stays (R90). DESIGN CHOICE (log 12), the spec's D10. -/
def flagThenResult (x : Reg) (flag result : Byte) (s : State) : Answer := .next ((s.setV VF flag).setV x result)

/-- `LD Vx, kk` (R91). -/
def execLd (x : Reg) (kk : Byte) (s : State) : Answer := .next (s.setV x kk)

/-- `LD2 Vx, Vy` (R92). -/
def execLd2 (x y : Reg) (s : State) : Answer := .next (s.setV x (s.reg y))

/-- `ADD Vx, kk` (R93): wraps, no flag. -/
def execAdd (x : Reg) (kk : Byte) (s : State) : Answer := .next (s.setV x (s.reg x + kk))

/-- `OR Vx, Vy` (R94). -/
def execOr (x y : Reg) (s : State) : Answer := .next (s.setV x (s.reg x ||| s.reg y))

/-- `AND Vx, Vy` (R95). -/
def execAnd (x y : Reg) (s : State) : Answer := .next (s.setV x (s.reg x &&& s.reg y))

/-- `XOR Vx, Vy` (R96). -/
def execXor (x y : Reg) (s : State) : Answer := .next (s.setV x (s.reg x ^^^ s.reg y))

/-- `ADD2 Vx, Vy` (R97). -/
def execAdd2 (x y : Reg) (s : State) : Answer :=
  resultThenFlag x (s.reg x + s.reg y) (addFlag (s.reg x) (s.reg x + s.reg y)) s

/-- `SUB Vx, Vy` (R98). -/
def execSub (x y : Reg) (s : State) : Answer :=
  resultThenFlag x (s.reg x - s.reg y) (notBorrowFlag (s.reg x) (s.reg y)) s

/-- `SUBN Vx, Vy` (R99). -/
def execSubn (x y : Reg) (s : State) : Answer :=
  resultThenFlag x (s.reg y - s.reg x) (notBorrowFlag (s.reg y) (s.reg x)) s

/-- `SHR Vx` (R100): `y` is ignored. -/
def execShr (x : Reg) (s : State) : Answer := flagThenResult x (lowBitFlag (s.reg x)) (s.reg x >>> 1) s

/-- `SHL Vx` (R101): `y` is ignored. -/
def execShl (x : Reg) (s : State) : Answer := flagThenResult x (highBitFlag (s.reg x)) (s.reg x <<< 1) s

/-- `RND Vx, kk` (R102, R103): the next draw and `kk`. The draw is a FREE VALUE (log 13). -/
def execRnd (x : Reg) (kk : Byte) (s : State) : Answer :=
  .next ((s.setV x (Config.drawByte s.draws &&& kk)).countDraw)

end Sys2Proof.Machine
end

