-- ==== Sys2Proof/Machine/Control.lean ====
section
/-!
DEFINITION. The control transfer instructions (spec 41_control_flow.md): SYS RET JP CALL JP2 SE SNE SE2 SNE2. Inside a
meaning `pc` is the address of the instruction itself; the post-execution rule stands in Slot.lean.
-/

namespace Sys2Proof.Machine

/-- `pc <- t` after `CheckJump(t)` (R75). -/
def jumpTo (t : Word) (s : State) : Answer := orRaise (checkJump t) s fun _ => .next (s.setPc t)

/-- A skip: `pc <- pc + 4` if the condition holds, else nothing is written (R81). The new `pc` is not checked. -/
def skipIf (cond : Bool) (s : State) : Answer := .next (if cond then s.setPc (s.pc + 4) else s)

/-- `SYS nnn` (R76). DESIGN CHOICE (log 28), the spec's D27: the operand is never validated. -/
def execSys (s : State) : Answer := .next s

/-- `JP nnn` (R77). -/
def execJp (nnn : BitVec 12) (s : State) : Answer := jumpTo (addressOf nnn) s

/-- `RET` (R78): underflow, then the target, then `pc` and `sp`. -/
def execRet (s : State) : Answer :=
  if s.sp.val = 0 then raise .stackUnderflow s
  else orRaise (checkJump (returnTarget s)) s fun _ => .next ((s.setPc (returnTarget s)).pop)

/-- `CALL nnn` (R79): overflow, then the target, then the push of this instruction's own address. -/
def execCall (nnn : BitVec 12) (s : State) : Answer :=
  if s.sp.val = Config.stackDepth then raise .stackOverflow s
  else orRaise (checkJump (addressOf nnn)) s fun _ => .next ((s.push s.pc).setPc (addressOf nnn))

/-- `JP2 nnn` (R80). -/
def execJp2 (nnn : BitVec 12) (s : State) : Answer := jumpTo (offsetTarget nnn s) s

/-- `SE Vx, kk` (R81). -/
def execSe (x : Reg) (kk : Byte) (s : State) : Answer := skipIf (s.reg x == kk) s

/-- `SNE Vx, kk` (R82). -/
def execSne (x : Reg) (kk : Byte) (s : State) : Answer := skipIf (s.reg x != kk) s

/-- `SE2 Vx, Vy` (R83). -/
def execSe2 (x y : Reg) (s : State) : Answer := skipIf (s.reg x == s.reg y) s

/-- `SNE2 Vx, Vy` (R84). -/
def execSne2 (x y : Reg) (s : State) : Answer := skipIf (s.reg x != s.reg y) s

end Sys2Proof.Machine
end

