-- ==== Sys2Proof/Machine/Draw.lean ====
section
/-!
DEFINITION. The display instructions (spec 44_display.md): CLS DRW. The loops of R124 are over a pair: the display so
far, and whether a lit pixel has been erased.
-/

namespace Sys2Proof.Machine

/-- One sprite bit: if set, toggle its pixel and note an erased one (R124). -/
def drawBit (x0 y0 row : Byte) (r c : Nat) (p : Display × Bool) : Display × Bool :=
  if spriteBit row c then
    let old := p.1.readPixel (columnOf x0 c) (rowOf y0 r)
    (p.1.writePixel (columnOf x0 c) (rowOf y0 r) (!old), p.2 || old)
  else p

/-- The columns `c` to 7 of a sprite row, counted down by `k = 8 - c` (R124). -/
def drawColumns (x0 y0 row : Byte) (r : Nat) : Nat → Display × Bool → Display × Bool
  | 0, p => p
  | k + 1, p => drawColumns x0 y0 row r k (drawBit x0 y0 row r (7 - k) p)

/-- The sprite rows from row `r` on (R124). -/
def drawRows (x0 y0 : Byte) : Nat → List Byte → Display × Bool → Display × Bool
  | _, [], p => p
  | r, row :: rows, p => drawRows x0 y0 (r + 1) rows (drawColumns x0 y0 row r 8 p)

/-- `CLS` (R123). -/
def execCls (s : State) : Answer := .next (s.setDisplay Display.dark)

/-- `DRW Vx, Vy, n` (R124 to R126): the coordinates are read first, VF is written last.
DESIGN CHOICE (log 15), the spec's D12: `n = 0` raises InvalidRangeSize. -/
def execDrw (x y : Reg) (n : BitVec 4) (s : State) : Answer :=
  orRaise (memRead s.index n.toNat s) s fun rows =>
    let p := drawRows (s.reg x) (s.reg y) 0 rows (s.display, false)
    .next ((s.setDisplay p.1).setV VF (collisionFlag p.2))

end Sys2Proof.Machine
end

