-- ==== Sys2Proof/Machine/IndexMemory.lean ====
section
/-!
DEFINITION. Index register and memory instructions (spec 43_index_memory.md): LDI ADDI LDF LDB LDAI LDM. The memory
operand is the bytes from `index`, validated whole before any moves; `index` is not changed (R114).
-/

namespace Sys2Proof.Machine

/-- `LDI nnn` (R110): not validated here. -/
def execLdi (nnn : BitVec 12) (s : State) : Answer := .next (s.setIndex (addressOf nnn))

/-- `ADDI Vx` (R111). DESIGN CHOICE (log 17), the spec's D14: overflow is of the 16-bit register. -/
def execAddi (x : Reg) (s : State) : Answer :=
  if 0xFFFF < s.index.toNat + (s.reg x).toNat then raise .indexOverflow s
  else .next (s.setIndex (s.index + widen (s.reg x)))

/-- `LDF Vx` (R112): the whole register is tested. -/
def execLdf (x : Reg) (s : State) : Answer :=
  if h : (s.reg x).toNat < 16 then .next (s.setIndex (glyphTableOffset ⟨(s.reg x).toNat, h⟩))
  else raise (.invalidGlyphDigit (s.reg x)) s

/-- `MemWrite(index, …)` as an instruction's effect (R34, R114). -/
def storeAtIndex (bytes : List Byte) (s : State) : Answer :=
  orRaise (memWrite s.index bytes s) s fun m => .next (s.setMemory m)

/-- `LDB Vx` (R113): hundreds, tens and ones at `index`, `index + 1`, `index + 2`. -/
def execLdb (x : Reg) (s : State) : Answer := storeAtIndex (decimalDigits (s.reg x)) s

/-- `LDAI Vx` (R115): `V[0]` to `V[x]` from `index` up. -/
def execLdai (x : Reg) (s : State) : Answer := storeAtIndex (s.regsUpTo x) s

/-- `LDM Vx` (R116): `V[0]` to `V[x]` from the bytes at `index`. -/
def execLdm (x : Reg) (s : State) : Answer :=
  orRaise (memRead s.index (x.val + 1) s) s fun bytes => .next (s.setRegs (putRegs bytes 0 s.v))

end Sys2Proof.Machine
end

