-- ==== Sys2Proof/Machine/KeysTimers.lean ====
section
/-!
DEFINITION. Keypad and timer instructions (spec 45_keys_timers.md): SKP SKNP LDT LDK LDDT LDST.
-/

namespace Sys2Proof.Machine

/-- The key number in `Vx`, or InvalidKeyIndex above 15 (R130). DESIGN CHOICE (log 16), the spec's D13. -/
def keyNumber (k : Byte) : Except Fault Unit :=
  if 15 < k.toNat then .error (.invalidKeyIndex k) else .ok ()

/-- `SKP Vx` (R130): reads the level, not the edge. -/
def execSkp (x : Reg) (s : State) : Answer :=
  orRaise (keyNumber (s.reg x)) s fun _ => .next (if s.keyDown (s.reg x) then s.setPc (s.pc + 4) else s)

/-- `SKNP Vx` (R131). -/
def execSknp (x : Reg) (s : State) : Answer :=
  orRaise (keyNumber (s.reg x)) s fun _ => .next (if s.keyDown (s.reg x) then s else s.setPc (s.pc + 4))

/-- `LDT Vx` (R132). -/
def execLdt (x : Reg) (s : State) : Answer := .next (s.setV x s.delayTimer)

/-- `LDK Vx` (R133, R134): the first entry only sets the flag; later entries wait for a key to go down.
DESIGN CHOICE (log 18), the spec's D18: no key test on first entry. DEDUCED (log 32): a wait re-executes it. -/
def execLdk (x : Reg) (s : State) : Answer :=
  if s.isWaitingForKey then
    match lowestKey s.keyEdges with
    | some k => .next ((s.setV x (BitVec.ofNat 8 k.val)).setWaiting false)
    | none => .next s
  else .next (s.setWaiting true)

/-- `LDDT Vx` (R135): the accumulator is not touched. -/
def execLddt (x : Reg) (s : State) : Answer := .next (s.setDelayTimer (s.reg x))

/-- `LDST Vx` (R136). -/
def execLdst (x : Reg) (s : State) : Answer := .next (s.setSoundTimer (s.reg x))

end Sys2Proof.Machine
end

