-- ==== Sys2Proof/Machine/Dispatch.lean ====
section
/-!
DEFINITION. The meaning of every instruction, one arm per constructor (spec 40_instruction_cycle.md R63).
-/

namespace Sys2Proof.Machine

def exec (i : Instr) (s : State) : Host.Outcome State Fault Refusal :=
  match i with
  | .cls => Sys2Proof.Machine.execCls s
  | .ret => Sys2Proof.Machine.execRet s
  | .sys _ => Sys2Proof.Machine.execSys s
  | .jp nnn => Sys2Proof.Machine.execJp nnn s
  | .call nnn => Sys2Proof.Machine.execCall nnn s
  | .se x kk => Sys2Proof.Machine.execSe x kk s
  | .sne x kk => Sys2Proof.Machine.execSne x kk s
  | .se2 x y => Sys2Proof.Machine.execSe2 x y s
  | .sne2 x y => Sys2Proof.Machine.execSne2 x y s
  | .ld x kk => Sys2Proof.Machine.execLd x kk s
  | .ld2 x y => Sys2Proof.Machine.execLd2 x y s
  | .add x kk => Sys2Proof.Machine.execAdd x kk s
  | .or x y => Sys2Proof.Machine.execOr x y s
  | .and x y => Sys2Proof.Machine.execAnd x y s
  | .xor x y => Sys2Proof.Machine.execXor x y s
  | .add2 x y => Sys2Proof.Machine.execAdd2 x y s
  | .sub x y => Sys2Proof.Machine.execSub x y s
  | .subn x y => Sys2Proof.Machine.execSubn x y s
  | .shr x _ => Sys2Proof.Machine.execShr x s
  | .shl x _ => Sys2Proof.Machine.execShl x s
  | .ldi nnn => Sys2Proof.Machine.execLdi nnn s
  | .jp2 nnn => Sys2Proof.Machine.execJp2 nnn s
  | .rnd x kk => Sys2Proof.Machine.execRnd x kk s
  | .drw x y n => Sys2Proof.Machine.execDrw x y n s
  | .skp x => Sys2Proof.Machine.execSkp x s
  | .sknp x => Sys2Proof.Machine.execSknp x s
  | .ldt x => Sys2Proof.Machine.execLdt x s
  | .ldk x => Sys2Proof.Machine.execLdk x s
  | .lddt x => Sys2Proof.Machine.execLddt x s
  | .ldst x => Sys2Proof.Machine.execLdst x s
  | .addi x => Sys2Proof.Machine.execAddi x s
  | .ldf x => Sys2Proof.Machine.execLdf x s
  | .ldb x => Sys2Proof.Machine.execLdb x s
  | .ldai x => Sys2Proof.Machine.execLdai x s
  | .ldm x => Sys2Proof.Machine.execLdm x s

end Sys2Proof.Machine
end

