-- ==== Sys2Proof/Machine/Slot.lean ====
section
/-!
DEFINITION. The instruction slot (spec 40_instruction_cycle.md R60 to R67): fetch, decode, execute, the post-execution
rule and the key snapshot.
-/

namespace Sys2Proof.Machine

/-- `Fetch(addr)`: two bytes after the Execute check, high byte first (R35, R36, R61).
DESIGN CHOICE (log 7), the spec's D5: the fetch is checked. -/
def fetchWord (addr : Word) (s : State) : Except Fault Word :=
  match checkRange .execute addr 2 with
  | .ok () => .ok (wordOfBytes (s.memory.readByte addr.toNat) (s.memory.readByte (addr.toNat + 1)))
  | .error c => .error c

/-- Decode the fetched word; a failure is the fault UnknownOpcode (R62). -/
def decodeSlot (w : Word) : Except Fault Instr :=
  match decodeWord w with
  | .ok i => .ok i
  | .error _ => .error (.unknownOpcode w)

/-- Steps 2 and 3 of the slot: the instruction at `pc`, or the fault of its fetch or decode (R60). -/
def fetchInstr (s : State) : Except Fault Instr :=
  match fetchWord s.pc s with
  | .ok w => decodeSlot w
  | .error c => .error c

/-- The program-counter advance: by 2 if the instruction left `pc` at `pcBefore` and the machine is not waiting (R66).
DESIGN CHOICE (log 6), the spec's D8: "did not change" is tested by value. -/
def advance (pcBefore : Word) (s : State) : State :=
  if s.pc = pcBefore ∧ s.isWaitingForKey = false then s.setPc (s.pc + 2) else s

/-- The key snapshot (R67), and the note that a slot has run (log 22). DEDUCED (log 33): taken in every slot. -/
def State.snapshot (s : State) : State := { s with keyStatePrev := s.keyState, loadable := false }

/-- Steps 5 and 6 of the slot, skipped when the instruction raised (R60, R65). -/
def postExecute (pcBefore : Word) (s : State) : State :=
  if s.halted then s else (advance pcBefore s).snapshot

/-- The end of a slot around an instruction's answer. -/
def finishSlot (pcBefore : Word) (a : Answer) : Answer :=
  match a with
  | .next s => .next (postExecute pcBefore s)
  | .fault c => .fault c
  | .refused r => .refused r

/-- One instruction slot (R60). A halted machine runs none and answers its cause (R141, log 9); an odd `pc` has no
defined behaviour and is refused (R37, log 29). -/
def runSlot (s : State) : Answer :=
  match s.fault with
  | some c => .fault c
  | none =>
    if s.pc.toNat % 2 = 1 then .refused .oddProgramCounter
    else orRaise (fetchInstr s) s fun i => finishSlot s.pc (exec i s)

/-- Two bytes placed at `pc`, where the next slot fetches, with no check. -/
def placeWord (w : Word) (s : State) : State :=
  s.setMemory (s.memory.writeBytes s.pc.toNat (bytesOfWord w))

end Sys2Proof.Machine
end

