-- ==== Sys2Proof/Machine/Step.lean ====
section
/-!
DEFINITION. One step of the machine: one instruction slot (spec 40_instruction_cycle.md R60: "One step of that agent is
one instruction slot"). When slots run is the step driver's (Driver.lean; log 30).
-/

namespace Sys2Proof.Machine

/-- One instruction slot. -/
def step (s : State) : Host.Outcome State Fault Refusal := runSlot s

/-- `s` with the instruction whose bits are `w` at the place `step` fetches next; it stands for the program load
(log 30). -/
def State.withFetchWord (s : State) (nbits w : Nat) : State := placeWord (BitVec.ofNat 16 (w % 2 ^ nbits)) s

end Sys2Proof.Machine
end

