-- ==== Sys2Proof/Machine/Driver.lean ====
section
/-!
DEFINITION. The step driver and the host's transactions (spec 60_exceptions.md R150 to R167). The host acts only
between `step` calls (R162), so each is a function from state to state, and a call runs whole.
-/

namespace Sys2Proof.Machine

/-! ## The step driver (R150 to R154) -/

/-- Delay-timer decay (R151). -/
def delayDecay (delta : BitVec 32) (s : State) : State :=
  let total := (s.delayAccumulator + delta).toNat
  let ticks := total / delayPeriodMs
  { s with
    delayTimer := if s.delayTimer.toNat ≤ ticks then 0 else BitVec.ofNat 8 (s.delayTimer.toNat - ticks)
    delayAccumulator := BitVec.ofNat 32 (total % delayPeriodMs) }

/-- The sound timer counts up while it is not 0, and wraps (R152). DESIGN CHOICE (log 20), the spec's D16. -/
def soundQuirk (s : State) : State := if s.soundTimer = 0 then s else s.setSoundTimer (s.soundTimer + 1)

/-- The timer phase of a call (R150). -/
def timerPhase (delta : BitVec 32) (s : State) : State := soundQuirk (delayDecay delta s)

/-- How many slots this call issues (R153). -/
def slotCount (delta : BitVec 32) (s : State) : Nat := (s.instructionAccumulator + delta).toNat / instrPeriodMs

/-- The milliseconds left over for the next call (R153). -/
def keepRemainder (delta : BitVec 32) (s : State) : State :=
  { s with instructionAccumulator := BitVec.ofNat 32 ((s.instructionAccumulator + delta).toNat % instrPeriodMs) }

/-- Up to `n` slots, one after another; a fault drops the rest (R154, R141). -/
def runSlots : Nat → State → Answer
  | 0, s => .next s
  | n + 1, s =>
    match step s with
    | .next t => if t.halted then .next t else runSlots n t
    | .fault c => .fault c
    | .refused r => .refused r

/-- The state from which a call's slots run: timer phase, then the accumulator of the instruction phase (R150). -/
def callPrologue (delta : BitVec 32) (s : State) : State :=
  { keepRemainder delta (timerPhase delta s) with loadable := false }

/-- `step(delta_ms)` (R150): nothing while halted. DESIGN CHOICE (log 21), the spec's D17: a too large delta is
refused. -/
def stepCall (delta : BitVec 32) (s : State) : Answer :=
  if s.halted then .next s
  else if maxDeltaMs < delta.toNat then .refused .deltaTooLarge
  else runSlots (slotCount delta s) (callPrologue delta s)

/-! ## The other transactions (R160) -/

/-- Program load (R163): odd length, then too large, then the bytes from 0x200; nothing else of the machine changes.
DESIGN CHOICE (log 22), the spec's D20: an empty, a second or a late load is refused. -/
def loadProgram (bytes : List Byte) (s : State) : Answer :=
  if s.loadable = false ∨ s.halted then .refused .loadTooLate
  else if bytes.length % 2 = 1 then .fault (.programOddLength bytes.length)
  else if Config.memSize - Config.programBase < bytes.length then .fault (.programTooLarge bytes.length)
  else if bytes = [] then .refused .emptyProgram
  else .next { s with memory := s.memory.writeBytes Config.programBase bytes, loadable := false }

/-- `set_key_pressed(key, pressed)` (R164). DESIGN CHOICE (log 23), the spec's D21: a key above 15 is refused. -/
def setKeyPressed (key : Nat) (pressed : Bool) (s : State) : Answer :=
  if 15 < key then .refused .keyOutOfRange
  else .next { s with keyState := if pressed then s.keyState ||| (1#16 <<< key) else s.keyState &&& ~~~(1#16 <<< key) }

/-- The display read port (R166). DESIGN CHOICE (log 23), the spec's D28: coordinates outside are refused. -/
def pixelPort (x y : Nat) (s : State) : Except Refusal Bool :=
  if hx : x < 64 then
    if hy : y < 32 then .ok (s.display.readPixel ⟨x, hx⟩ ⟨y, hy⟩) else .error .pixelOutOfRange
  else .error .pixelOutOfRange

/-- The sound port (R167). -/
def soundPort (s : State) : Byte := s.soundTimer

/-- The host's transactions that can change the machine (R160). -/
inductive HostAction where
  | load (bytes : List Byte)
  | setKey (key : Nat) (pressed : Bool)
  | stepMs (delta : BitVec 32)
  deriving DecidableEq, Repr

/-- What a transaction does. -/
def applyAction : HostAction → State → Answer
  | .load bytes => loadProgram bytes
  | .setKey key pressed => setKeyPressed key pressed
  | .stepMs delta => stepCall delta

end Sys2Proof.Machine
end

