-- ==== Sys2Proof/Safety.lean ====
section
/-!
DEFINITION. The terms in which claims about the machine are stated: what it is to fetch an instruction, to write one
register, a legal code address; the table of spec 40_instruction_cycle.md R68; which state an instruction may write
(10_state.md R28); the invariant of reachable states; a safe run (60_exceptions.md R141).
-/

namespace Sys2Proof.Machine

/-! ## Instruction words, by arithmetic on the nibbles of R49 -/

/-- The word `op nnn`. -/
def wordNNN (op : Nat) (nnn : BitVec 12) : Word := BitVec.ofNat 16 (op * 0x1000 + nnn.toNat)
/-- The word `op x kk`, also `op x` with a fixed last byte. -/
def wordXKK (op : Nat) (x : Reg) (kk : Nat) : Word := BitVec.ofNat 16 (op * 0x1000 + x.val * 0x100 + kk)
/-- The word `op x y n`. -/
def wordXYN (op : Nat) (x y : Reg) (n : Nat) : Word :=
  BitVec.ofNat 16 (op * 0x1000 + x.val * 0x100 + y.val * 0x10 + n)

/-- The illegal words of R51, family by family. -/
def illegalWord (w : Word) : Prop :=
  let op := w.toNat / 0x1000
  let n := w.toNat % 0x10
  let kk := w.toNat % 0x100
  (op = 0x5 ∧ n ≠ 0) ∨ (op = 0x9 ∧ n ≠ 0) ∨
  (op = 0x8 ∧ (n = 0x8 ∨ n = 0x9 ∨ n = 0xA ∨ n = 0xB ∨ n = 0xC ∨ n = 0xD ∨ n = 0xF)) ∨
  (op = 0xE ∧ kk ≠ 0x9E ∧ kk ≠ 0xA1) ∨
  (op = 0xF ∧ kk ≠ 0x07 ∧ kk ≠ 0x0A ∧ kk ≠ 0x15 ∧ kk ≠ 0x18 ∧ kk ≠ 0x1E ∧ kk ≠ 0x29 ∧ kk ≠ 0x33 ∧ kk ≠ 0x55 ∧
    kk ≠ 0x65)

/-! ## Addresses and fetching -/

/-- `t` is even and two bytes can be executed there: 0x200 to 0xFFE (R35, R75). -/
def Executable (t : Word) : Prop := t.toNat % 2 = 0 ∧ 0x200 ≤ t.toNat ∧ t.toNat ≤ 0xFFE

/-- The word at an address, the byte at the lower address the high one (R36). -/
def codeWord (s : State) (a : Nat) : Word :=
  BitVec.ofNat 16 ((s.memory.readByte a).toNat * 256 + (s.memory.readByte (a + 1)).toNat)

/-- The machine is not halted, and the word at `pc` can be fetched and is the instruction `i` (R60 to R62). -/
def Fetches (s : State) (i : Instr) : Prop :=
  s.fault = none ∧ Executable s.pc ∧ decodeWord (codeWord s s.pc.toNat) = .ok i

/-! ## Changes of state -/

/-- From `s` to `t`, register `x` receives `b` and nothing else changes. -/
def WritesReg (s t : State) (x : Reg) (b : Byte) : Prop :=
  t.reg x = b ∧ (∀ r, r ≠ x → t.reg r = s.reg r) ∧ t = { s with v := t.v }

/-- From `s` to `t`, the registers other than `x` and `VF` keep their values and no other state changes. -/
def WritesRegAndVF (s t : State) (x : Reg) : Prop :=
  (∀ r, r ≠ x → r ≠ VF → t.reg r = s.reg r) ∧ t = { s with v := t.v }

/-- A raise of `c`: the machine is halted with the cause and nothing else changes (R141, R142). -/
def Raises (i : Instr) (s : State) (c : Fault) : Prop := exec i s = .next { s with fault := some c }

/-- A skip instruction whose condition is `cond`: the meaning adds 4 to `pc` or writes nothing, and the whole slot, run
while no key is awaited, adds 4 or 2; the new `pc` is not checked (R66, R81). -/
def SkipsWhen (i : Instr) (s : State) (cond : Prop) : Prop :=
  (cond → exec i s = .next { s with pc := s.pc + 4 }) ∧
  (¬ cond → exec i s = .next s) ∧
  (Fetches s i → s.isWaitingForKey = false →
    ∃ t, step s = .next t ∧ t.fault = none ∧ (cond → t.pc = s.pc + 4) ∧ (¬ cond → t.pc = s.pc + 2))

/-- Key `k` is down and was up at the last snapshot (R133). -/
def KeyEdge (s : State) (k : Nat) : Prop := s.keyState.getLsbD k = true ∧ s.keyStatePrev.getLsbD k = false

/-- The registers an instruction may write (R28). -/
def mayWriteReg : Instr → Reg → Prop
  | .ld x _, r => r = x
  | .ld2 x _, r => r = x
  | .add x _, r => r = x
  | .or x _, r => r = x
  | .and x _, r => r = x
  | .xor x _, r => r = x
  | .rnd x _, r => r = x
  | .ldt x, r => r = x
  | .ldk x, r => r = x
  | .add2 x _, r => r = x ∨ r = VF
  | .sub x _, r => r = x ∨ r = VF
  | .subn x _, r => r = x ∨ r = VF
  | .shr x _, r => r = x ∨ r = VF
  | .shl x _, r => r = x ∨ r = VF
  | .drw _ _ _, r => r = VF
  | .ldm x, r => r.val ≤ x.val
  | .cls, _ => False
  | .ret, _ => False
  | .sys _, _ => False
  | .jp _, _ => False
  | .call _, _ => False
  | .se _ _, _ => False
  | .sne _ _, _ => False
  | .se2 _ _, _ => False
  | .sne2 _ _, _ => False
  | .ldi _, _ => False
  | .jp2 _, _ => False
  | .skp _, _ => False
  | .sknp _, _ => False
  | .lddt _, _ => False
  | .ldst _, _ => False
  | .addi _, _ => False
  | .ldf _, _ => False
  | .ldb _, _ => False
  | .ldai _, _ => False

/-- How many bytes an instruction stores from `index` up (R113, R115). -/
def storedBytes : Instr → Nat
  | .ldb _ => 3
  | .ldai x => x.val + 1
  | _ => 0

/-- `CALL` and `RET`, which alone reach the call stack (R13). -/
def usesStack : Instr → Bool
  | .call _ => true
  | .ret => true
  | _ => false

/-- The instructions whose rule can write `pc` (R28). -/
def mayWritePc : Instr → Bool
  | .jp _ => true
  | .call _ => true
  | .ret => true
  | .jp2 _ => true
  | .se _ _ => true
  | .sne _ _ => true
  | .se2 _ _ => true
  | .sne2 _ _ => true
  | .skp _ => true
  | .sknp _ => true
  | _ => false

/-- The instructions that can write `index` (R14). -/
def mayWriteIndex : Instr → Bool
  | .ldi _ => true
  | .addi _ => true
  | .ldf _ => true
  | _ => false

/-- `CLS` and `DRW`, which alone write the display (R23). -/
def mayWriteDisplay : Instr → Bool
  | .cls => true
  | .drw _ _ _ => true
  | _ => false

/-! ## The program counter after a slot (R68) -/

/-- A control transfer to `t` from its own address falls through (R69). -/
def landing (pc t : Word) : Word := if t = pc then pc + 2 else t

/-- A skip: 4 if the condition holds, else 2. -/
def skipping (pc : Word) (cond : Prop) [Decidable cond] : Word := if cond then pc + 4 else pc + 2

/-- The table of R68: `pc` after a slot that did not fault, from the state before it. -/
def slotPc : Instr → State → Word
  | .jp nnn, s => landing s.pc (BitVec.ofNat 16 nnn.toNat)
  | .call nnn, s => landing s.pc (BitVec.ofNat 16 nnn.toNat)
  | .jp2 nnn, s => landing s.pc (BitVec.ofNat 16 (nnn.toNat + (s.reg 0).toNat))
  | .ret, s => landing s.pc (s.stack[s.sp.val - 1]'(by omega) + 2)
  | .se x kk, s => skipping s.pc (s.reg x = kk)
  | .sne x kk, s => skipping s.pc (s.reg x ≠ kk)
  | .se2 x y, s => skipping s.pc (s.reg x = s.reg y)
  | .sne2 x y, s => skipping s.pc (s.reg x ≠ s.reg y)
  | .skp x, s => skipping s.pc (s.keyState.getLsbD (s.reg x).toNat = true)
  | .sknp x, s => skipping s.pc (s.keyState.getLsbD (s.reg x).toNat = false)
  | .ldk _, s => if s.isWaitingForKey = true ∧ s.keyState &&& ~~~s.keyStatePrev ≠ 0 then s.pc + 2 else s.pc
  | .cls, s => s.pc + 2
  | .sys _, s => s.pc + 2
  | .ld _ _, s => s.pc + 2
  | .ld2 _ _, s => s.pc + 2
  | .add _ _, s => s.pc + 2
  | .or _ _, s => s.pc + 2
  | .and _ _, s => s.pc + 2
  | .xor _ _, s => s.pc + 2
  | .add2 _ _, s => s.pc + 2
  | .sub _ _, s => s.pc + 2
  | .subn _ _, s => s.pc + 2
  | .shr _ _, s => s.pc + 2
  | .shl _ _, s => s.pc + 2
  | .ldi _, s => s.pc + 2
  | .rnd _ _, s => s.pc + 2
  | .drw _ _ _, s => s.pc + 2
  | .ldt _, s => s.pc + 2
  | .lddt _, s => s.pc + 2
  | .ldst _, s => s.pc + 2
  | .addi _, s => s.pc + 2
  | .ldf _, s => s.pc + 2
  | .ldb _, s => s.pc + 2
  | .ldai _, s => s.pc + 2
  | .ldm _, s => s.pc + 2

/-! ## Sprites (R124, R125) -/

/-- The sprite at `index` with `n` rows, drawn at `(x0, y0)`, has a 1 bit on the pixel `(px, py)`. -/
def SpriteCovers (s : State) (x0 y0 : Byte) (n : Nat) (px : Fin 64) (py : Fin 32) : Prop :=
  ∃ r c, r < n ∧ c < 8 ∧ px.val = (x0.toNat + c) % 64 ∧ py.val = (y0.toNat + r) % 32 ∧
    (s.memory.readByte (s.index.toNat + r)).getLsbD (7 - c) = true

/-! ## Issue over several calls (R153, R154) -/

/-- The slots issued by a sequence of calls, following the instruction accumulator alone. -/
def slotsIssued : List (BitVec 32) → State → Nat
  | [], _ => 0
  | d :: ds, s => slotCount d s + slotsIssued ds (keepRemainder d s)

/-- The milliseconds reported by a sequence of calls. -/
def totalMs : List (BitVec 32) → Nat
  | [] => 0
  | d :: ds => d.toNat + totalMs ds

/-! ## The invariant of reachable states -/

/-- What holds of the machine from reset on, whatever the program and the host do. -/
structure State.Inv (s : State) : Prop where
  /-- Memory keeps its canonical form (log 31). -/
  memory_wf : s.memory.wf = true
  /-- The reserved area is never written (R39). -/
  reserved : ∀ a, a < 0x200 → s.memory.readByte a = resetByte a
  /-- `pc` is even (R12, R37). -/
  pc_even : s.pc.toNat % 2 = 0
  /-- `pc` is at least 0x200 and at most 0x1002 (R12). -/
  pc_range : 0x200 ≤ s.pc.toNat ∧ s.pc.toNat ≤ 0x1002
  /-- Every live stack slot holds the address of an instruction (R13, R78). -/
  stack_live : ∀ k, (h : k < 16) → k < s.sp.val → Executable s.stack[k]
  /-- `delay_accumulator` is less than its period (R17). -/
  delay_small : s.delayAccumulator.toNat < 16
  /-- `instruction_accumulator` is less than its period (R18). -/
  instr_small : s.instructionAccumulator.toNat < 2
  /-- While the machine waits for a key, the word at `pc` is an `LDK` (R22, R134). -/
  waiting_ldk : s.isWaitingForKey = true →
    s.pc.toNat ≤ 0xFFE ∧ ∃ x, decodeWord (codeWord s s.pc.toNat) = .ok (.ldk x)
  /-- A machine that may still be loaded waits for nothing. -/
  loadable_fresh : s.loadable = true → s.isWaitingForKey = false

/-- `k` slots from `s` end without a fault: the terms in which a claim about a program is safe (R141). -/
def SafeFor (k : Nat) (s : State) : Prop := ∃ t, runSlots k s = .next t ∧ t.fault = none

end Sys2Proof.Machine
end

