-- ==== Sys2Proof/Certificates/Slice0/Obligations.lean ====
section
/-!
DEFINITION. The statements for the provers, rule by rule of spec/. Where a statement rests on a choice the spec or the
model made, its docstring names the log entry. Wherever a statement says that a fault is raised, that the raise is a
next state with the cause in `fault` is log 9.
-/

open Sys2Proof Sys2Proof.Machine

/-! ## Encoding (30_encoding.md) -/

/-- A word of every one of the 35 rows of the opcode map decodes to the instruction it stands for, a second `SYS` word
to `SYS`, and 0x5121 to none (95_test_vectors.md section 2.7). The opcode numbers are PRESUMED (log 4); that 0x5121 is
no instruction is log 5. -/
def Obligations.DecodesTheListedWords : Prop :=
  decodeWord 0x00E0#16 = .ok .cls ∧ decodeWord 0x00EE#16 = .ok .ret ∧ decodeWord 0x0000#16 = .ok (.sys 0x000#12) ∧
  decodeWord 0x00E1#16 = .ok (.sys 0x0E1#12) ∧ decodeWord 0x1ABC#16 = .ok (.jp 0xABC#12) ∧
  decodeWord 0x2ABC#16 = .ok (.call 0xABC#12) ∧ decodeWord 0x3AFF#16 = .ok (.se 10 0xFF#8) ∧
  decodeWord 0x4450#16 = .ok (.sne 4 0x50#8) ∧ decodeWord 0x5120#16 = .ok (.se2 1 2) ∧
  decodeWord 0x9AB0#16 = .ok (.sne2 10 11) ∧ decodeWord 0x6F00#16 = .ok (.ld 15 0#8) ∧
  decodeWord 0x7123#16 = .ok (.add 1 0x23#8) ∧ decodeWord 0x8AB0#16 = .ok (.ld2 10 11) ∧
  decodeWord 0x8AB1#16 = .ok (.or 10 11) ∧ decodeWord 0x8AB2#16 = .ok (.and 10 11) ∧
  decodeWord 0x8AB3#16 = .ok (.xor 10 11) ∧ decodeWord 0x8AB4#16 = .ok (.add2 10 11) ∧
  decodeWord 0x8AB5#16 = .ok (.sub 10 11) ∧ decodeWord 0x8AB6#16 = .ok (.shr 10 11) ∧
  decodeWord 0x8AB7#16 = .ok (.subn 10 11) ∧ decodeWord 0x8ABE#16 = .ok (.shl 10 11) ∧
  decodeWord 0xA123#16 = .ok (.ldi 0x123#12) ∧ decodeWord 0xB123#16 = .ok (.jp2 0x123#12) ∧
  decodeWord 0xC1F0#16 = .ok (.rnd 1 0xF0#8) ∧ decodeWord 0xD12F#16 = .ok (.drw 1 2 15#4) ∧
  decodeWord 0xE19E#16 = .ok (.skp 1) ∧ decodeWord 0xE1A1#16 = .ok (.sknp 1) ∧
  decodeWord 0xF107#16 = .ok (.ldt 1) ∧ decodeWord 0xF10A#16 = .ok (.ldk 1) ∧ decodeWord 0xF115#16 = .ok (.lddt 1) ∧
  decodeWord 0xF118#16 = .ok (.ldst 1) ∧ decodeWord 0xF11E#16 = .ok (.addi 1) ∧ decodeWord 0xF129#16 = .ok (.ldf 1) ∧
  decodeWord 0xF133#16 = .ok (.ldb 1) ∧ decodeWord 0xF155#16 = .ok (.ldai 1) ∧ decodeWord 0xF165#16 = .ok (.ldm 1) ∧
  decodeWord 0x5121#16 = .error (.unknownOpcode 0x5121#16)

/-- R55: encoding is the inverse of the decode algorithm on the instructions some word spells, byte strings included.
(Opcode numbers: log 4.) -/
def Obligations.DecodeInvertsEncode : Prop :=
  ∀ i : Instr, i.WellFormed →
    decodeWord (encodeWord i) = .ok i ∧ ∀ rest, decodeBytes (encode i ++ rest) = .ok (i, rest)

/-- Every legal word is the word of the instruction it decodes to, so no bit of a word is dropped (R50, R55). (Opcode
numbers: log 4.) -/
def Obligations.EncodeInvertsDecode : Prop :=
  ∀ (w : Word) (i : Instr), decodeWord w = .ok i → encodeWord i = w ∧ i.WellFormed

/-- R51: the illegal words are exactly those listed. That `5xyN` and `9xyN` are among them is log 5. (Opcode numbers:
log 4.) -/
def Obligations.IllegalWordsAreExactlyTheListed : Prop :=
  ∀ w : Word, (illegalWord w → decodeWord w = .error (.unknownOpcode w)) ∧
    (¬ illegalWord w → ∃ i, decodeWord w = .ok i)

/-! ## The slot (40_instruction_cycle.md) -/

/-- R60, R63, R65 to R67: every meaning answers a next state, and a slot that fetches `i` answers it too; unless `i`
raised, after the advance of `pc` and the key snapshot. The advance tests `pc` by value (log 6); the snapshot is
taken per slot (log 33); that a raise skips both is log 10 (the spec's D19), that it is a next state log 9;
`loadable` is the model's own (log 22). -/
def Obligations.StepRunsTheDecodedInstruction : Prop :=
  ∀ (s : State) (i : Instr), Fetches s i →
    ∃ t, exec i s = .next t ∧
      (t.fault ≠ none → step s = .next t) ∧
      (t.fault = none → step s = .next { t with
        pc := if t.pc = s.pc ∧ t.isWaitingForKey = false then t.pc + 2 else t.pc
        keyStatePrev := t.keyState
        loadable := false })

/-- R61, R35: a fetch outside 0x200 to 0xFFE halts the machine (checked fetch: log 7; nothing else is written: log
10); an odd `pc` is refused (log 29). -/
def Obligations.FetchOutsideCodeHalts : Prop :=
  ∀ s : State, s.fault = none →
    (s.pc.toNat % 2 = 0 → (s.pc.toNat < 0x200 ∨ 0xFFE < s.pc.toNat) →
      step s = .next { s with fault := some (.invalidMemoryRange .execute s.pc 2) }) ∧
    (s.pc.toNat % 2 = 1 → step s = .refused .oddProgramCounter)

/-- R51, R62: executing an illegal word halts the machine with that word. (Opcode numbers: log 4; `5xyN` and `9xyN`:
log 5; a raise is a next state: log 9; it writes nothing else: log 10.) -/
def Obligations.UnknownWordHalts : Prop :=
  ∀ s : State, s.fault = none → Executable s.pc → illegalWord (codeWord s s.pc.toNat) →
    step s = .next { s with fault := some (.unknownOpcode (codeWord s s.pc.toNat)) }

/-- R142, R65: a slot that faults writes nothing but the fault. That the post-execution writes are skipped is log 10. -/
def Obligations.FaultingSlotWritesNothingElse : Prop :=
  ∀ (s t : State) (c : Fault), s.fault = none → step s = .next t → t.fault = some c →
    t = { s with fault := some c }

/-- R141: a halted machine runs no slot, and a `step` call of it changes nothing (log 9, log 10). -/
def Obligations.HaltedMachineRunsNothing : Prop :=
  ∀ (s : State) (c : Fault), s.fault = some c → step s = .fault c ∧ ∀ d, stepCall d s = .next s

/-- R68, R69: `pc` after a slot that does not fault, for every instruction. While a key is awaited the instruction is
an `LDK` (an invariant, stated below). A transfer to the instruction's own address falls through (log 6). `LDK` tests
no key on first entry (log 18), and a wait holds `pc` (log 32). -/
def Obligations.SlotPcFollowsTheTable : Prop :=
  ∀ (s : State) (i : Instr) (t : State), Fetches s i → (s.isWaitingForKey = true → ∃ x, i = .ldk x) →
    step s = .next t → t.fault = none → t.pc = slotPc i s

/-- R67: the key snapshot is taken in every slot that does not fault, and by no call that runs no slot. That it is
taken per slot and not per frame is the spec's resolution C11 (log 33). -/
def Obligations.KeySnapshotAfterEverySlot : Prop :=
  (∀ s t : State, step s = .next t → t.fault = none → t.keyStatePrev = s.keyState ∧ t.keyState = s.keyState) ∧
  (∀ (s t : State) (d : BitVec 32), slotCount d s = 0 → stepCall d s = .next t →
    t.keyStatePrev = s.keyStatePrev ∧ t.keyState = s.keyState)

/-! ## Control transfer (41_control_flow.md) -/

/-- R76, R53, R67: `SYS` does nothing, its slot only advances `pc` and takes the key snapshot that every slot takes
(log 33), and 4094 words spell it (not validated: log 28; the model's own `loadable`: log 22). (Opcode numbers: log
4; what no rule writes is unchanged: log 27.) -/
def Obligations.SysOnlyAdvances : Prop :=
  (∀ (s : State) (nnn : BitVec 12),
    exec (.sys nnn) s = .next s ∧
    (Fetches s (.sys nnn) → s.isWaitingForKey = false →
      step s = .next { s with pc := s.pc + 2, keyStatePrev := s.keyState, loadable := false })) ∧
  (∀ nnn : BitVec 12, nnn ≠ 0x0E0#12 → nnn ≠ 0x0EE#12 → decodeWord (wordNNN 0x0 nnn) = .ok (.sys nnn))

/-- R77, R75: `JP` goes to an even target at 0x200 or above, and raises otherwise, alignment first (log 8). (Opcode
numbers: log 4; what no rule writes is unchanged: log 27.) -/
def Obligations.JpGoesToItsTarget : Prop :=
  ∀ (s : State) (nnn : BitVec 12),
    decodeWord (wordNNN 0x1 nnn) = .ok (.jp nnn) ∧
    (nnn.toNat % 2 = 0 → 0x200 ≤ nnn.toNat → exec (.jp nnn) s = .next { s with pc := BitVec.ofNat 16 nnn.toNat }) ∧
    (nnn.toNat % 2 = 1 → Raises (.jp nnn) s (.misalignedJumpTarget (BitVec.ofNat 16 nnn.toNat))) ∧
    (nnn.toNat % 2 = 0 → nnn.toNat < 0x200 →
      Raises (.jp nnn) s (.invalidMemoryRange .execute (BitVec.ofNat 16 nnn.toNat) 2))

/-- R80, R75: `JP2` goes to `nnn + V0`, not reduced modulo 4096, if it is even and in 0x200 to 0xFFE (log 8). (Opcode
numbers: log 4; what no rule writes is unchanged: log 27.) -/
def Obligations.JpTwoAddsVZero : Prop :=
  ∀ (s : State) (nnn : BitVec 12),
    decodeWord (wordNNN 0xB nnn) = .ok (.jp2 nnn) ∧
    ∀ sum, sum = nnn.toNat + (s.reg 0).toNat →
      (sum % 2 = 0 → 0x200 ≤ sum → sum ≤ 0xFFE → exec (.jp2 nnn) s = .next { s with pc := BitVec.ofNat 16 sum }) ∧
      (sum % 2 = 1 → Raises (.jp2 nnn) s (.misalignedJumpTarget (BitVec.ofNat 16 sum))) ∧
      (sum % 2 = 0 → (sum < 0x200 ∨ 0xFFE < sum) →
        Raises (.jp2 nnn) s (.invalidMemoryRange .execute (BitVec.ofNat 16 sum) 2))

/-- R79, R144: `CALL` pushes its own address; its faults in order: full stack, odd target, target below 0x200 (log 8).
(Opcode numbers: log 4; what no rule writes is unchanged: log 27.) -/
def Obligations.CallPushesItsOwnAddress : Prop :=
  ∀ (s : State) (nnn : BitVec 12),
    decodeWord (wordNNN 0x2 nnn) = .ok (.call nnn) ∧
    (s.sp.val = 16 → Raises (.call nnn) s .stackOverflow) ∧
    (s.sp.val < 16 → nnn.toNat % 2 = 1 →
      Raises (.call nnn) s (.misalignedJumpTarget (BitVec.ofNat 16 nnn.toNat))) ∧
    (s.sp.val < 16 → nnn.toNat % 2 = 0 → nnn.toNat < 0x200 →
      Raises (.call nnn) s (.invalidMemoryRange .execute (BitVec.ofNat 16 nnn.toNat) 2)) ∧
    (s.sp.val < 16 → nnn.toNat % 2 = 0 → 0x200 ≤ nnn.toNat →
      ∃ t, exec (.call nnn) s = .next t ∧ t.pc = BitVec.ofNat 16 nnn.toNat ∧ t.sp.val = s.sp.val + 1 ∧
        (∀ k, (hk : k < 16) → t.stack[k] = if k = s.sp.val then s.pc else s.stack[k]) ∧
        t = { s with pc := t.pc, sp := t.sp, stack := t.stack })

/-- R78, R144: `RET` goes 2 past the address in the top slot and pops it; its faults in order (log 8, log 25). (Opcode
numbers: log 4; what no rule writes is unchanged: log 27.) -/
def Obligations.RetPopsAndAddsTwo : Prop :=
  decodeWord 0x00EE#16 = .ok .ret ∧
  ∀ s : State,
    (s.sp.val = 0 → Raises .ret s .stackUnderflow) ∧
    (0 < s.sp.val → ∀ back, back = s.stack[s.sp.val - 1]'(by omega) + 2 →
      (Executable back → ∃ t, exec .ret s = .next t ∧ t.pc = back ∧ t.sp.val = s.sp.val - 1 ∧
        t = { s with pc := t.pc, sp := t.sp }) ∧
      (back.toNat % 2 = 1 → Raises .ret s (.misalignedJumpTarget back)) ∧
      (back.toNat % 2 = 0 → (back.toNat < 0x200 ∨ 0xFFE < back.toNat) →
        Raises .ret s (.invalidMemoryRange .execute back 2)))

/-- The property quoted in R78: a `CALL` whose target holds a `RET` comes back 2 past itself with `sp` as before. The
two self-address corners of R69 and a call from the last slot are excluded. (Opcode numbers: log 4.) -/
def Obligations.CallThenRetReturns : Prop :=
  ∀ (s : State) (nnn : BitVec 12), Fetches s (.call nnn) → s.isWaitingForKey = false → s.sp.val < 16 →
    nnn.toNat % 2 = 0 → 0x200 ≤ nnn.toNat → nnn.toNat ≠ s.pc.toNat → nnn.toNat ≠ s.pc.toNat + 2 →
    s.pc.toNat < 0xFFE → codeWord s nnn.toNat = 0x00EE#16 →
    ∃ t u, step s = .next t ∧ t.pc.toNat = nnn.toNat ∧ step t = .next u ∧ u.fault = none ∧
      u.pc = s.pc + 2 ∧ u.sp = s.sp

/-- R81 to R84: the four skips on register values add 4 to `pc` or write nothing, and with the advance 4 or 2. (Opcode
numbers: log 4; what no rule writes is unchanged: log 27.) -/
def Obligations.SkipsTestAndAddFour : Prop :=
  (∀ (s : State) (x : Reg) (kk : Byte),
    decodeWord (wordXKK 0x3 x kk.toNat) = .ok (.se x kk) ∧ SkipsWhen (.se x kk) s (s.reg x = kk)) ∧
  (∀ (s : State) (x : Reg) (kk : Byte),
    decodeWord (wordXKK 0x4 x kk.toNat) = .ok (.sne x kk) ∧ SkipsWhen (.sne x kk) s (s.reg x ≠ kk)) ∧
  (∀ (s : State) (x y : Reg),
    decodeWord (wordXYN 0x5 x y 0x0) = .ok (.se2 x y) ∧ SkipsWhen (.se2 x y) s (s.reg x = s.reg y)) ∧
  (∀ (s : State) (x y : Reg),
    decodeWord (wordXYN 0x9 x y 0x0) = .ok (.sne2 x y) ∧ SkipsWhen (.sne2 x y) s (s.reg x ≠ s.reg y))

/-! ## Arithmetic and logic (42_alu.md) -/

/-- R91 to R96: `LD`, `LD2`, `ADD`, `OR`, `AND`, `XOR` write `Vx` and nothing else; `ADD` wraps and sets no flag.
(Opcode numbers: log 4; what no rule writes is unchanged: log 27.) -/
def Obligations.LoadsAndLogicWriteOneRegister : Prop :=
  (∀ (s : State) (x : Reg) (kk : Byte), decodeWord (wordXKK 0x6 x kk.toNat) = .ok (.ld x kk) ∧
    ∃ t, exec (.ld x kk) s = .next t ∧ WritesReg s t x kk) ∧
  (∀ (s : State) (x y : Reg), decodeWord (wordXYN 0x8 x y 0x0) = .ok (.ld2 x y) ∧
    ∃ t, exec (.ld2 x y) s = .next t ∧ WritesReg s t x (s.reg y)) ∧
  (∀ (s : State) (x : Reg) (kk : Byte), decodeWord (wordXKK 0x7 x kk.toNat) = .ok (.add x kk) ∧
    ∃ t, exec (.add x kk) s = .next t ∧ WritesReg s t x (BitVec.ofNat 8 (((s.reg x).toNat + kk.toNat) % 256))) ∧
  (∀ (s : State) (x y : Reg), decodeWord (wordXYN 0x8 x y 0x1) = .ok (.or x y) ∧
    ∃ t, exec (.or x y) s = .next t ∧ WritesReg s t x (s.reg x ||| s.reg y)) ∧
  (∀ (s : State) (x y : Reg), decodeWord (wordXYN 0x8 x y 0x2) = .ok (.and x y) ∧
    ∃ t, exec (.and x y) s = .next t ∧ WritesReg s t x (s.reg x &&& s.reg y)) ∧
  (∀ (s : State) (x y : Reg), decodeWord (wordXYN 0x8 x y 0x3) = .ok (.xor x y) ∧
    ∃ t, exec (.xor x y) s = .next t ∧ WritesReg s t x (s.reg x ^^^ s.reg y))

/-- R97: `ADD2` wraps; VF is 1 exactly when the true sum exceeds 255 or `Vy = 0`. The polarity is the spec's
resolution C1 (log 11); with `x = 15` the flag stays (log 12). (Opcode numbers: log 4; what no rule writes is
unchanged: log 27.) -/
def Obligations.AddRegistersSetsFlag : Prop :=
  ∀ (s : State) (x y : Reg), decodeWord (wordXYN 0x8 x y 0x4) = .ok (.add2 x y) ∧
    ∃ t, exec (.add2 x y) s = .next t ∧
      t.reg VF = (if 255 < (s.reg x).toNat + (s.reg y).toNat ∨ s.reg y = 0 then 1 else 0) ∧
      (x ≠ VF → t.reg x = BitVec.ofNat 8 (((s.reg x).toNat + (s.reg y).toNat) % 256)) ∧
      WritesRegAndVF s t x

/-- R98, R99: `SUB` and `SUBN` wrap; VF is 1 exactly when the minuend is strictly greater. With `x = 15` the flag
stays (log 12). (Opcode numbers: log 4; what no rule writes is unchanged: log 27.) -/
def Obligations.SubtractSetsFlag : Prop :=
  (∀ (s : State) (x y : Reg), decodeWord (wordXYN 0x8 x y 0x5) = .ok (.sub x y) ∧
    ∃ t, exec (.sub x y) s = .next t ∧
      t.reg VF = (if (s.reg x).toNat > (s.reg y).toNat then 1 else 0) ∧
      (x ≠ VF → t.reg x = BitVec.ofNat 8 (((s.reg x).toNat + 256 - (s.reg y).toNat) % 256)) ∧
      WritesRegAndVF s t x) ∧
  (∀ (s : State) (x y : Reg), decodeWord (wordXYN 0x8 x y 0x7) = .ok (.subn x y) ∧
    ∃ t, exec (.subn x y) s = .next t ∧
      t.reg VF = (if (s.reg y).toNat > (s.reg x).toNat then 1 else 0) ∧
      (x ≠ VF → t.reg x = BitVec.ofNat 8 (((s.reg y).toNat + 256 - (s.reg x).toNat) % 256)) ∧
      WritesRegAndVF s t x)

/-- R100, R101: the shifts of `Vx` by one, `Vy` ignored; VF is the bit shifted out. With `x = 15` the result stays
(log 12). (Opcode numbers: log 4; what no rule writes is unchanged: log 27.) -/
def Obligations.ShiftsByOneSetFlag : Prop :=
  (∀ (s : State) (x y : Reg), decodeWord (wordXYN 0x8 x y 0x6) = .ok (.shr x y) ∧
    ∃ t, exec (.shr x y) s = .next t ∧
      t.reg x = BitVec.ofNat 8 ((s.reg x).toNat / 2) ∧
      (x ≠ VF → t.reg VF = BitVec.ofNat 8 ((s.reg x).toNat % 2)) ∧
      WritesRegAndVF s t x) ∧
  (∀ (s : State) (x y : Reg), decodeWord (wordXYN 0x8 x y 0xE) = .ok (.shl x y) ∧
    ∃ t, exec (.shl x y) s = .next t ∧
      t.reg x = BitVec.ofNat 8 ((s.reg x).toNat * 2 % 256) ∧
      (x ≠ VF → t.reg VF = BitVec.ofNat 8 ((s.reg x).toNat / 128)) ∧
      WritesRegAndVF s t x)

/-- R102, R103: `RND` writes a new draw masked by `kk`; every bit that is 0 in `kk` is 0. The draw is a free value, of
which nothing is assumed (log 13). (Opcode numbers: log 4; what no rule writes is unchanged: log 27.) -/
def Obligations.RndMasksTheDraw : Prop :=
  ∀ (s : State) (x : Reg) (kk : Byte), decodeWord (wordXKK 0xC x kk.toNat) = .ok (.rnd x kk) ∧
    ∃ t, exec (.rnd x kk) s = .next t ∧ t.reg x = Config.drawByte s.draws &&& kk ∧ t.draws = s.draws + 1 ∧
      (∀ j, kk.getLsbD j = false → (t.reg x).getLsbD j = false) ∧
      (∀ r, r ≠ x → t.reg r = s.reg r) ∧ t = { s with v := t.v, draws := t.draws }

/-! ## Index and memory (43_index_memory.md) -/

/-- R110: `LDI` loads `index` with the address, not validated. (Opcode numbers: log 4; what no rule writes is
unchanged: log 27.) -/
def Obligations.LdiLoadsIndex : Prop :=
  ∀ (s : State) (nnn : BitVec 12), decodeWord (wordNNN 0xA nnn) = .ok (.ldi nnn) ∧
    exec (.ldi nnn) s = .next { s with index := BitVec.ofNat 16 nnn.toNat }

/-- R111: `ADDI` adds `Vx` to `index` or raises when the sum passes 0xFFFF (log 17; a raise writes nothing: log 10).
(Opcode numbers: log 4; what no rule writes is unchanged: log 27.) -/
def Obligations.AddiAddsOrOverflows : Prop :=
  ∀ (s : State) (x : Reg), decodeWord (wordXKK 0xF x 0x1E) = .ok (.addi x) ∧
    (s.index.toNat + (s.reg x).toNat ≤ 0xFFFF →
      exec (.addi x) s = .next { s with index := BitVec.ofNat 16 (s.index.toNat + (s.reg x).toNat) }) ∧
    (0xFFFF < s.index.toNat + (s.reg x).toNat → Raises (.addi x) s .indexOverflow)

/-- R112, R25: `LDF` points `index` at glyph `Vx`, five bytes a glyph (log 3), or raises above 15 (a raise writes
nothing: log 10). (Opcode numbers: log 4; what no rule writes is unchanged: log 27.) -/
def Obligations.LdfPointsAtTheGlyph : Prop :=
  ∀ (s : State) (x : Reg), decodeWord (wordXKK 0xF x 0x29) = .ok (.ldf x) ∧
    ((s.reg x).toNat ≤ 15 → exec (.ldf x) s = .next { s with index := BitVec.ofNat 16 (5 * (s.reg x).toNat) }) ∧
    (15 < (s.reg x).toNat → Raises (.ldf x) s (.invalidGlyphDigit (s.reg x)))

/-- R113: `LDB` stores hundreds, tens and ones at `index` up and nothing else, or raises and stores nothing. (Opcode
numbers: log 4; what no rule writes is unchanged: log 27.) -/
def Obligations.LdbStoresThreeDigits : Prop :=
  ∀ (s : State) (x : Reg), decodeWord (wordXKK 0xF x 0x33) = .ok (.ldb x) ∧
    (s.memory.wf = true → 0x200 ≤ s.index.toNat → s.index.toNat ≤ 0xFFD →
      ∃ t, exec (.ldb x) s = .next t ∧
        (t.memory.readByte s.index.toNat).toNat = (s.reg x).toNat / 100 ∧
        (t.memory.readByte (s.index.toNat + 1)).toNat = (s.reg x).toNat / 10 % 10 ∧
        (t.memory.readByte (s.index.toNat + 2)).toNat = (s.reg x).toNat % 10 ∧
        (∀ a, (a < s.index.toNat ∨ s.index.toNat + 3 ≤ a) → t.memory.readByte a = s.memory.readByte a) ∧
        t = { s with memory := t.memory }) ∧
    (¬ (0x200 ≤ s.index.toNat ∧ s.index.toNat ≤ 0xFFD) → Raises (.ldb x) s (.invalidMemoryRange .write s.index 3))

/-- R115: `LDAI` stores `V0` to `Vx` at `index` up and nothing else, or raises and stores nothing. (Opcode numbers:
log 4; what no rule writes is unchanged: log 27.) -/
def Obligations.LdaiStoresRegisters : Prop :=
  ∀ (s : State) (x : Reg), decodeWord (wordXKK 0xF x 0x55) = .ok (.ldai x) ∧
    (s.memory.wf = true → 0x200 ≤ s.index.toNat → s.index.toNat + x.val ≤ 0xFFF →
      ∃ t, exec (.ldai x) s = .next t ∧
        (∀ r : Reg, r.val ≤ x.val → t.memory.readByte (s.index.toNat + r.val) = s.reg r) ∧
        (∀ a, (a < s.index.toNat ∨ s.index.toNat + x.val + 1 ≤ a) → t.memory.readByte a = s.memory.readByte a) ∧
        t = { s with memory := t.memory }) ∧
    (¬ (0x200 ≤ s.index.toNat ∧ s.index.toNat + x.val ≤ 0xFFF) →
      Raises (.ldai x) s (.invalidMemoryRange .write s.index (BitVec.ofNat 16 (x.val + 1))))

/-- R116: `LDM` loads `V0` to `Vx` from `index` up and nothing else, the glyph area included, or raises. (Opcode
numbers: log 4; what no rule writes is unchanged: log 27.) -/
def Obligations.LdmLoadsRegisters : Prop :=
  ∀ (s : State) (x : Reg), decodeWord (wordXKK 0xF x 0x65) = .ok (.ldm x) ∧
    (s.index.toNat + x.val ≤ 0xFFF →
      ∃ t, exec (.ldm x) s = .next t ∧
        (∀ r : Reg, r.val ≤ x.val → t.reg r = s.memory.readByte (s.index.toNat + r.val)) ∧
        (∀ r : Reg, x.val < r.val → t.reg r = s.reg r) ∧
        t = { s with v := t.v }) ∧
    (0xFFF < s.index.toNat + x.val →
      Raises (.ldm x) s (.invalidMemoryRange .read s.index (BitVec.ofNat 16 (x.val + 1))))

/-! ## Display (44_display.md) -/

/-- R123: `CLS` leaves every one of the 2048 pixels dark and writes nothing else. (Opcode numbers: log 4; what no rule
writes is unchanged: log 27.) -/
def Obligations.ClsDarkensEveryPixel : Prop :=
  decodeWord 0x00E0#16 = .ok .cls ∧
  ∀ s : State, ∃ t, exec .cls s = .next t ∧ (∀ x y, t.display.readPixel x y = false) ∧
    t = { s with display := t.display }

/-- R124, R125: `DRW` toggles exactly the pixels under a 1 bit of the sprite, wrapping on both axes, and writes only
the display and VF. (Opcode numbers: log 4; what no rule writes is unchanged: log 27.) -/
def Obligations.DrwTogglesTheSpritePixels : Prop :=
  ∀ (s : State) (x y : Reg) (n : BitVec 4), decodeWord (wordXYN 0xD x y n.toNat) = .ok (.drw x y n) ∧
    (0 < n.toNat → s.index.toNat + n.toNat ≤ 0x1000 →
      ∃ t, exec (.drw x y n) s = .next t ∧
        (∀ px py, SpriteCovers s (s.reg x) (s.reg y) n.toNat px py →
          t.display.readPixel px py = !(s.display.readPixel px py)) ∧
        (∀ px py, ¬ SpriteCovers s (s.reg x) (s.reg y) n.toNat px py →
          t.display.readPixel px py = s.display.readPixel px py) ∧
        (∀ r, r ≠ VF → t.reg r = s.reg r) ∧
        t = { s with v := t.v, display := t.display })

/-- R124 and the first sentence of R126: VF is 1 exactly when some pixel lit before is dark after, that is, a sprite
bit fell on a lit pixel; the same sprite drawn again at the same place restores the surface. The rule for VF holds
on that second draw too, where it goes against R126's last sentence if every covered pixel was lit at first: that
half of the sentence is left out, and the model follows the pseudocode of R124 (log 14). -/
def Obligations.DrwFlagReportsErasure : Prop :=
  ∀ (s : State) (x y : Reg) (n : BitVec 4), 0 < n.toNat → s.index.toNat + n.toNat ≤ 0x1000 →
    ∃ t, exec (.drw x y n) s = .next t ∧
      ((∃ px py, s.display.readPixel px py = true ∧ t.display.readPixel px py = false) → t.reg VF = 1) ∧
      (¬ (∃ px py, s.display.readPixel px py = true ∧ t.display.readPixel px py = false) → t.reg VF = 0) ∧
      ((∃ px py, s.display.readPixel px py = true ∧ t.display.readPixel px py = false) ↔
        ∃ px py, s.display.readPixel px py = true ∧ SpriteCovers s (s.reg x) (s.reg y) n.toNat px py) ∧
      (t.reg x = s.reg x → t.reg y = s.reg y →
        ∃ u, exec (.drw x y n) t = .next u ∧ ∀ px py, u.display.readPixel px py = s.display.readPixel px py)

/-- R124: `DRW` with no rows or with rows above 0xFFF raises and draws nothing (no rows: log 15). -/
def Obligations.DrwRaisesOnBadSprite : Prop :=
  ∀ (s : State) (x y : Reg) (n : BitVec 4),
    (n.toNat = 0 → Raises (.drw x y n) s .invalidRangeSize) ∧
    (0 < n.toNat → 0x1000 < s.index.toNat + n.toNat →
      Raises (.drw x y n) s (.invalidMemoryRange .read s.index (BitVec.ofNat 16 n.toNat)))

/-! ## Keys and timers (45_keys_timers.md) -/

/-- R130, R131: `SKP` and `SKNP` skip on the level of key `Vx`, and raise above 15 (log 16; a raise writes nothing:
log 10). (Opcode numbers: log 4; what no rule writes is unchanged: log 27.) -/
def Obligations.SkipsOnKeyLevel : Prop :=
  ∀ (s : State) (x : Reg),
    decodeWord (wordXKK 0xE x 0x9E) = .ok (.skp x) ∧ decodeWord (wordXKK 0xE x 0xA1) = .ok (.sknp x) ∧
    ((s.reg x).toNat ≤ 15 → SkipsWhen (.skp x) s (s.keyState.getLsbD (s.reg x).toNat = true)) ∧
    ((s.reg x).toNat ≤ 15 → SkipsWhen (.sknp x) s (s.keyState.getLsbD (s.reg x).toNat = false)) ∧
    (15 < (s.reg x).toNat → Raises (.skp x) s (.invalidKeyIndex (s.reg x)) ∧
      Raises (.sknp x) s (.invalidKeyIndex (s.reg x)))

/-- R132, R135, R136: `LDT` reads the delay timer; `LDDT` and `LDST` write the timers and nothing else. (Opcode
numbers: log 4; what no rule writes is unchanged: log 27.) -/
def Obligations.TimersMoveThroughRegisters : Prop :=
  ∀ (s : State) (x : Reg),
    decodeWord (wordXKK 0xF x 0x07) = .ok (.ldt x) ∧ decodeWord (wordXKK 0xF x 0x15) = .ok (.lddt x) ∧
    decodeWord (wordXKK 0xF x 0x18) = .ok (.ldst x) ∧
    (∃ t, exec (.ldt x) s = .next t ∧ WritesReg s t x s.delayTimer) ∧
    exec (.lddt x) s = .next { s with delayTimer := s.reg x } ∧
    exec (.ldst x) s = .next { s with soundTimer := s.reg x }

/-- R133: `LDK` sets the flag on first entry with no key test (log 18), then waits, then stores the lowest key that
went down and clears the flag. (Opcode numbers: log 4; what no rule writes is unchanged: log 27.) -/
def Obligations.LdkWaitsForAPress : Prop :=
  ∀ (s : State) (x : Reg), decodeWord (wordXKK 0xF x 0x0A) = .ok (.ldk x) ∧
    (s.isWaitingForKey = false → exec (.ldk x) s = .next { s with isWaitingForKey := true }) ∧
    (s.isWaitingForKey = true → (∀ k, k < 16 → ¬ KeyEdge s k) → exec (.ldk x) s = .next s) ∧
    (s.isWaitingForKey = true → ∀ k, k < 16 → KeyEdge s k → (∀ j, j < k → ¬ KeyEdge s j) →
      ∃ t, exec (.ldk x) s = .next t ∧ t.reg x = BitVec.ofNat 8 k ∧ (∀ r, r ≠ x → t.reg r = s.reg r) ∧
        t.isWaitingForKey = false ∧ t = { s with v := t.v, isWaitingForKey := false })

/-- R134, R70: the blocked state as slots. Entering, with no key test in that slot (log 18, the spec's D18), and
waiting, in which slots still run and re-execute the instruction (log 32, the spec's C3), hold `pc`, refresh the
snapshot, as every slot does (log 33), and leave the same `LDK` to be fetched; a press advances by 2. -/
def Obligations.BlockedSlotReexecutesLdk : Prop :=
  ∀ (s : State) (x : Reg), Fetches s (.ldk x) →
    ((s.isWaitingForKey = false ∨ ∀ k, k < 16 → ¬ KeyEdge s k) →
      ∃ t, step s = .next t ∧ t.isWaitingForKey = true ∧ t.pc = s.pc ∧ t.keyStatePrev = s.keyState ∧ t.v = s.v ∧
        Fetches t (.ldk x)) ∧
    (s.isWaitingForKey = true → (∃ k, k < 16 ∧ KeyEdge s k) →
      ∃ t, step s = .next t ∧ t.isWaitingForKey = false ∧ t.pc = s.pc + 2 ∧ t.keyStatePrev = s.keyState)

/-! ## Frames (10_state.md R28; 00_scope.md R5, the closed-world reading, log 27) -/

/-- No instruction writes a general register outside its list. -/
def Obligations.RegistersOutsideTheListAreKept : Prop :=
  ∀ (i : Instr) (s t : State) (r : Reg), exec i s = .next t → ¬ mayWriteReg i r → t.reg r = s.reg r

/-- No instruction changes a byte of memory outside the bytes it stores from `index` up: three for `LDB`, `x + 1` for
`LDAI`, none for any other. -/
def Obligations.MemoryOutsideTheStoreIsKept : Prop :=
  ∀ (i : Instr) (s t : State) (a : Nat), exec i s = .next t →
    (a < s.index.toNat ∨ s.index.toNat + storedBytes i ≤ a) → t.memory.readByte a = s.memory.readByte a

/-- Only control transfers write `pc`, only `CALL` and `RET` move `sp`, only `CALL` writes a stack slot, only `LDI`,
`ADDI` and `LDF` write `index`. -/
def Obligations.MachineRegistersAreKept : Prop :=
  ∀ (i : Instr) (s t : State), exec i s = .next t →
    (mayWritePc i = false → t.pc = s.pc) ∧
    (usesStack i = false → t.sp = s.sp) ∧
    ((∀ nnn, i ≠ .call nnn) → t.stack = s.stack) ∧
    (mayWriteIndex i = false → t.index = s.index)

/-- Only `CLS` and `DRW` write the display, only `LDDT` the delay timer, only `LDST` the sound timer, only `LDK` the
blocked flag, only `RND` draws; no instruction writes the keys, the snapshot or an accumulator; and one that raises
writes nothing else (R142; log 10, the spec's D19). -/
def Obligations.DevicesAndCountersAreKept : Prop :=
  ∀ (i : Instr) (s t : State), exec i s = .next t →
    (mayWriteDisplay i = false → t.display = s.display) ∧
    ((∀ x, i ≠ .lddt x) → t.delayTimer = s.delayTimer) ∧
    ((∀ x, i ≠ .ldst x) → t.soundTimer = s.soundTimer) ∧
    ((∀ x, i ≠ .ldk x) → t.isWaitingForKey = s.isWaitingForKey) ∧
    ((∀ x kk, i ≠ .rnd x kk) → t.draws = s.draws) ∧
    t.keyState = s.keyState ∧ t.keyStatePrev = s.keyStatePrev ∧ t.delayAccumulator = s.delayAccumulator ∧
    t.instructionAccumulator = s.instructionAccumulator ∧ t.loadable = s.loadable ∧
    (t.fault = s.fault ∨ ∃ c, t = { s with fault := some c })

/-! ## The address validator and the checked accesses (20_memory.md) -/

/-- R31: size 0 raises; a range is valid exactly when it ends inside memory without wrapping and, to write or execute,
starts at 0x200 or above (16-bit operands: log 26). -/
def Obligations.ValidatorAcceptsExactlyTheMap : Prop :=
  ∀ (base size : Word) (usage : Usage),
    (size = 0 → isValidRange base size usage = .error .invalidRangeSize) ∧
    (size ≠ 0 → base.toNat + size.toNat ≤ 0x1000 → (usage = .read ∨ 0x200 ≤ base.toNat) →
      isValidRange base size usage = .ok true) ∧
    (size ≠ 0 → ¬ (base.toNat + size.toNat ≤ 0x1000 ∧ (usage = .read ∨ 0x200 ≤ base.toNat)) →
      isValidRange base size usage = .ok false)

/-- R33: `MemRead` of `n` bytes, `n` a 16-bit count, faults on no bytes or a bad range, else gives the bytes lowest
address first. -/
def Obligations.CheckedReadGivesTheBytes : Prop :=
  ∀ (s : State) (addr : Word) (n : Nat), n < 65536 →
    (n = 0 → memRead addr n s = .error .invalidRangeSize) ∧
    (isValidRange addr (BitVec.ofNat 16 n) .read = .ok false →
      memRead addr n s = .error (.invalidMemoryRange .read addr (BitVec.ofNat 16 n))) ∧
    (isValidRange addr (BitVec.ofNat 16 n) .read = .ok true →
      ∃ bytes, memRead addr n s = .ok bytes ∧ bytes.length = n ∧
        ∀ k, (h : k < bytes.length) → bytes[k] = s.memory.readByte (addr.toNat + k))

/-- R34: `MemWrite`, its count 16 bits, faults on no bytes or a bad range, else stores every byte and changes only the
addressed ones. -/
def Obligations.CheckedWriteStoresTheBytes : Prop :=
  ∀ (s : State) (addr : Word) (bytes : List Byte), s.memory.wf = true → bytes.length < 65536 →
    (bytes.length = 0 → memWrite addr bytes s = .error .invalidRangeSize) ∧
    (isValidRange addr (BitVec.ofNat 16 bytes.length) .write = .ok false →
      memWrite addr bytes s = .error (.invalidMemoryRange .write addr (BitVec.ofNat 16 bytes.length))) ∧
    (isValidRange addr (BitVec.ofNat 16 bytes.length) .write = .ok true →
      ∃ m, memWrite addr bytes s = .ok m ∧
        (∀ k, (h : k < bytes.length) → m.readByte (addr.toNat + k) = bytes[k]) ∧
        (∀ a, (a < addr.toNat ∨ addr.toNat + bytes.length ≤ a) → m.readByte a = s.memory.readByte a))

/-! ## The step driver (60_exceptions.md) -/

/-- R151, R152: the timer phase. The delay timer loses one per 16 ms, never below 0 (log 19); a sound timer that is
not 0 grows by one and wraps (log 20); nothing else changes. -/
def Obligations.TimerPhaseMovesBothTimers : Prop :=
  ∀ (s : State) (d : BitVec 32), s.delayAccumulator.toNat + d.toNat < 2 ^ 32 →
    (timerPhase d s).delayTimer.toNat = s.delayTimer.toNat - (s.delayAccumulator.toNat + d.toNat) / 16 ∧
    (timerPhase d s).delayAccumulator.toNat = (s.delayAccumulator.toNat + d.toNat) % 16 ∧
    (s.soundTimer = 0 → (timerPhase d s).soundTimer = 0) ∧
    (s.soundTimer ≠ 0 → (timerPhase d s).soundTimer.toNat = (s.soundTimer.toNat + 1) % 256) ∧
    timerPhase d s = { s with
      delayTimer := (timerPhase d s).delayTimer
      soundTimer := (timerPhase d s).soundTimer
      delayAccumulator := (timerPhase d s).delayAccumulator }

/-- R150, R153, D17: a call is refused above 0xFFFFFFF0 (log 21); a shorter one whose milliseconds fill no slot moves
only the timers and the accumulators (periods: log 19; the model's own `loadable`: log 22). -/
def Obligations.ShortCallMovesOnlyTheClock : Prop :=
  ∀ (s : State) (d : BitVec 32), s.fault = none → s.instructionAccumulator.toNat < 2 →
    (0xFFFFFFF0 < d.toNat → stepCall d s = .refused .deltaTooLarge) ∧
    (s.instructionAccumulator.toNat + d.toNat < 2 →
      ∃ t, stepCall d s = .next t ∧
        t.instructionAccumulator.toNat = s.instructionAccumulator.toNat + d.toNat ∧
        t = { timerPhase d s with instructionAccumulator := t.instructionAccumulator, loadable := false })

/-- R150, R153, R154: a call of legal length on a machine not halted, fewer than 2 ms left over from before, runs the
timer phase, keeps the remainder of the milliseconds, and runs from there the slots due, one per 2 ms; one slot is one
step. The period is log 19, the bound on `d` log 21,
that a step is a slot log 30, and `loadable` the model's own (log 22). -/
def Obligations.StepCallRunsTheDueSlots : Prop :=
  (∀ (s : State) (d : BitVec 32), s.fault = none → s.instructionAccumulator.toNat < 2 → d.toNat ≤ 0xFFFFFFF0 →
    stepCall d s = runSlots ((s.instructionAccumulator.toNat + d.toNat) / 2) { timerPhase d s with
      instructionAccumulator := BitVec.ofNat 32 ((s.instructionAccumulator.toNat + d.toNat) % 2)
      loadable := false }) ∧
  (∀ s : State, runSlots 0 s = .next s ∧ runSlots 1 s = step s)

/-- R153, R154: over any sequence of calls the slots issued are the reported milliseconds over two: none is lost or
counted twice (log 19). -/
def Obligations.SlotsLoseNoMillisecond : Prop :=
  ∀ (ds : List (BitVec 32)) (s : State), s.instructionAccumulator.toNat < 2 → (∀ d ∈ ds, d.toNat ≤ 0xFFFFFFF0) →
    slotsIssued ds s = (s.instructionAccumulator.toNat + totalMs ds) / 2

/-- R154, R141: slots run one after another, and a fault drops those still due (log 10). -/
def Obligations.SlotsRunInSequence : Prop :=
  ∀ (m n : Nat) (s : State), s.fault = none →
    (∀ t, runSlots m s = .next t → t.fault = none → runSlots (m + n) s = runSlots n t) ∧
    (∀ t c, runSlots m s = .next t → t.fault = some c → runSlots (m + n) s = .next t)

/-- R60, R71: `k` slots of a call that end unhalted are `k` steps of the core, with nothing between them (what a step
is: log 30). -/
def Obligations.SlotsAreStepsOfTheCore : Prop :=
  ∀ (k : Nat) (s t : State), runSlots k s = .next t → t.fault = none → Host.Core.run Sys2Proof.core k s = .next t

/-- R150 "The call always returns": from a state of the invariant no slot and no call of a legal length (log 21) is
refused. -/
def Obligations.CallAlwaysReturns : Prop :=
  ∀ s : State, s.Inv →
    (s.fault = none → ∃ t, step s = .next t) ∧
    (∀ d : BitVec 32, d.toNat ≤ 0xFFFFFFF0 → ∃ t, stepCall d s = .next t)

/-! ## The host's transactions (60_exceptions.md) -/

/-- R163: a load of an even number of bytes that fit is written from 0x200 and changes no other byte; odd length fails
first, then too many. A failed load is answered as a fault with no next state, which is the model's choice (log 34). An
empty, second or late load, or a load of a halted machine, is refused (log 22, the spec's D20). The bytes are kept in
the canonical form of log 31. -/
def Obligations.ProgramLoadWritesFromBase : Prop :=
  ∀ (s : State) (bytes : List Byte),
    (s.loadable = true → s.fault = none → bytes.length % 2 = 1 →
      loadProgram bytes s = .fault (.programOddLength bytes.length)) ∧
    (s.loadable = true → s.fault = none → bytes.length % 2 = 0 → 3584 < bytes.length →
      loadProgram bytes s = .fault (.programTooLarge bytes.length)) ∧
    (s.loadable = true → s.fault = none → bytes = [] → loadProgram bytes s = .refused .emptyProgram) ∧
    (s.loadable = false ∨ s.fault ≠ none → loadProgram bytes s = .refused .loadTooLate) ∧
    (s.loadable = true → s.fault = none → s.memory.wf = true → bytes.length % 2 = 0 → bytes.length ≤ 3584 →
      bytes ≠ [] →
      ∃ t, loadProgram bytes s = .next t ∧
        (∀ k, (h : k < bytes.length) → t.memory.readByte (0x200 + k) = bytes[k]) ∧
        (∀ a, (a < 0x200 ∨ 0x200 + bytes.length ≤ a) → t.memory.readByte a = s.memory.readByte a) ∧
        t = { s with memory := t.memory, loadable := false })

/-- R164: a key transaction writes one bit of `key_state` and nothing else; a key above 15 is refused (log 23). -/
def Obligations.KeyInputWritesOneBit : Prop :=
  ∀ (s : State) (key : Nat) (pressed : Bool),
    (key ≤ 15 → ∃ t, setKeyPressed key pressed s = .next t ∧ t.keyState.getLsbD key = pressed ∧
      (∀ j, j ≠ key → t.keyState.getLsbD j = s.keyState.getLsbD j) ∧ t = { s with keyState := t.keyState }) ∧
    (15 < key → setKeyPressed key pressed s = .refused .keyOutOfRange)

/-- R166, R122: the display port gives bit `x mod 8` of byte `x div 8` of row `y` (log 24), and refuses coordinates
outside (log 23). -/
def Obligations.PixelPortReadsThePackedBit : Prop :=
  ∀ (s : State) (x y : Nat),
    ((hx : x < 64) → (hy : y < 32) →
      pixelPort x y s = .ok (decide ((s.display[y][x / 8]'(by omega)).toNat / 2 ^ (x % 8) % 2 = 1))) ∧
    (64 ≤ x ∨ 32 ≤ y → pixelPort x y s = .error .pixelOutOfRange)

/-! ## Reset and the invariant -/

/-- R27, R170, row by row: what reset leaves. The document states `pc`, memory zeroed with the 80 glyph bytes copied
in, and the display dark. The glyph bytes are PRESUMED (log 2); zero at 0x050 to 0x1FF and the glyph offsets are log
3; memory is kept as the list of what differs from this (log 31); every other value of the machine is the spec's
decision of zero or false (log 1). The last two are the model's own: `draws` (log 13) and `loadable` (log 22). -/
def Obligations.ResetLeavesTheStatedValues : Prop :=
  State.reset.pc = 0x200 ∧
  glyphBytes.length = 80 ∧
  (∀ a, (h : a < glyphBytes.length) → State.reset.memory.readByte a = glyphBytes[a]) ∧
  (∀ a, 0x50 ≤ a → a ≤ 0xFFF → State.reset.memory.readByte a = 0) ∧
  (∀ x y, State.reset.display.readPixel x y = false) ∧
  (∀ r, State.reset.reg r = 0) ∧ State.reset.sp = 0 ∧ (∀ k, (h : k < 16) → State.reset.stack[k] = 0) ∧
  State.reset.index = 0 ∧ State.reset.delayTimer = 0 ∧ State.reset.soundTimer = 0 ∧
  State.reset.delayAccumulator = 0 ∧ State.reset.instructionAccumulator = 0 ∧
  State.reset.keyState = 0 ∧ State.reset.keyStatePrev = 0 ∧ State.reset.isWaitingForKey = false ∧
  State.reset.halted = false ∧ State.reset.fault = none ∧
  (∀ d : Fin 16, (glyphTableOffset d).toNat = 5 * d.val) ∧
  State.reset.draws = 0 ∧ State.reset.loadable = true

/-- The invariant holds at reset (values the document does not give: log 1, log 3). -/
def Obligations.ResetSatisfiesTheInvariant : Prop := State.reset.Inv

/-- From every state of the invariant a slot leads to a state of the invariant: canonical memory (log 31), reserved
area untouched, `pc` even and in 0x200 to 0x1002, live stack slots executable, small accumulators, an awaited key only
at an `LDK` (log 32) (R12, R13, R17, R18, R22, R37, R39, R134). -/
def Obligations.StepKeepsTheInvariant : Prop :=
  ∀ s t : State, s.Inv → step s = .next t → t.Inv

/-- Every transaction of the host (a load, a key, a whole `step` call) leads from a state of the invariant to one
(R150, R163, R164) (periods: log 19; late loads: log 22). -/
def Obligations.HostActionsKeepTheInvariant : Prop :=
  ∀ (a : HostAction) (s t : State), s.Inv → applyAction a s = .next t → t.Inv

/-- R39: no slot, from any state, writes a byte below 0x200. -/
def Obligations.ReservedMemoryIsNeverWritten : Prop :=
  ∀ (s t : State) (a : Nat), a < 0x200 → step s = .next t → t.memory.readByte a = s.memory.readByte a

/-- R17, R18, R16: no slot observes the accumulators or the sound timer. Two machines that differ only there make the
same step. -/
def Obligations.SlotsIgnoreAccumulatorsAndSound : Prop :=
  ∀ (s t : State) (a b : BitVec 32) (snd : Byte), step s = .next t →
    ∃ t', step { s with delayAccumulator := a, instructionAccumulator := b, soundTimer := snd } = .next t' ∧
      t' = { t with delayAccumulator := a, instructionAccumulator := b, soundTimer := t'.soundTimer } ∧
      (t'.soundTimer = t.soundTimer ∨ t'.soundTimer = snd)
end

