-- ==== Sys2Proof/Laws/Decode.lean ====
section
/-!
SUPPORT. The fields of a word and the words the encoder packs, as numbers.
-/

namespace Sys2Proof

theorem toNat_fieldOp (w : Word) : (fieldOp w).toNat = w.toNat / 0x1000 % 0x10 := by
  simp [fieldOp, BitVec.extractLsb'_toNat, Nat.shiftRight_eq_div_pow]
theorem val_fieldX (w : Word) : (fieldX w).val = w.toNat / 0x100 % 0x10 := by
  simp [fieldX, BitVec.extractLsb'_toNat, Nat.shiftRight_eq_div_pow]
theorem val_fieldY (w : Word) : (fieldY w).val = w.toNat / 0x10 % 0x10 := by
  simp [fieldY, BitVec.extractLsb'_toNat, Nat.shiftRight_eq_div_pow]
theorem toNat_fieldN (w : Word) : (fieldN w).toNat = w.toNat % 0x10 := by
  simp [fieldN, BitVec.extractLsb'_toNat]
theorem toNat_fieldKK (w : Word) : (fieldKK w).toNat = w.toNat % 0x100 := by
  simp [fieldKK, BitVec.extractLsb'_toNat]
theorem toNat_fieldNNN (w : Word) : (fieldNNN w).toNat = w.toNat % 0x1000 := by
  simp [fieldNNN, BitVec.extractLsb'_toNat]

theorem toNat_wordOfBytes (hi lo : Byte) : (wordOfBytes hi lo).toNat = hi.toNat * 256 + lo.toNat := by
  unfold wordOfBytes
  rw [BitVec.toNat_append, ← Nat.shiftLeft_add_eq_or_of_lt lo.isLt, Nat.shiftLeft_eq]

theorem toNat_packNNN (op : BitVec 4) (nnn : BitVec 12) :
    (packNNN op nnn).toNat = op.toNat * 0x1000 + nnn.toNat := by
  unfold packNNN
  rw [BitVec.toNat_append, ← Nat.shiftLeft_add_eq_or_of_lt nnn.isLt, Nat.shiftLeft_eq]

theorem toNat_regBits (r : Reg) : (regBits r).toNat = r.val := by
  simp [regBits]

theorem toNat_packXKK (op : BitVec 4) (x : Reg) (kk : Byte) :
    (packXKK op x kk).toNat = op.toNat * 0x1000 + x.val * 0x100 + kk.toNat := by
  unfold packXKK
  rw [BitVec.toNat_append, ← Nat.shiftLeft_add_eq_or_of_lt kk.isLt, Nat.shiftLeft_eq, BitVec.toNat_append,
    ← Nat.shiftLeft_add_eq_or_of_lt (regBits x).isLt, Nat.shiftLeft_eq, toNat_regBits]
  omega

theorem toNat_packXYN (op : BitVec 4) (x y : Reg) (n : BitVec 4) :
    (packXYN op x y n).toNat = op.toNat * 0x1000 + x.val * 0x100 + y.val * 0x10 + n.toNat := by
  unfold packXYN
  rw [BitVec.toNat_append, ← Nat.shiftLeft_add_eq_or_of_lt (regBits y ++ n).isLt, Nat.shiftLeft_eq,
    BitVec.toNat_append, BitVec.toNat_append, ← Nat.shiftLeft_add_eq_or_of_lt (regBits x).isLt, Nat.shiftLeft_eq,
    ← Nat.shiftLeft_add_eq_or_of_lt n.isLt, Nat.shiftLeft_eq, toNat_regBits, toNat_regBits]
  omega

/-! ## The fields of packed words, and words packed from their fields -/

theorem fieldX_eq {w : Word} {x : Reg} (h : w.toNat / 0x100 % 0x10 = x.val) : fieldX w = x :=
  Fin.ext (by rw [val_fieldX, h])
theorem fieldY_eq {w : Word} {y : Reg} (h : w.toNat / 0x10 % 0x10 = y.val) : fieldY w = y :=
  Fin.ext (by rw [val_fieldY, h])
theorem fieldOp_eq {w : Word} {op : BitVec 4} (h : w.toNat / 0x1000 % 0x10 = op.toNat) : fieldOp w = op :=
  BitVec.eq_of_toNat_eq (by rw [toNat_fieldOp, h])
theorem fieldN_eq {w : Word} {n : BitVec 4} (h : w.toNat % 0x10 = n.toNat) : fieldN w = n :=
  BitVec.eq_of_toNat_eq (by rw [toNat_fieldN, h])
theorem fieldKK_eq {w : Word} {kk : Byte} (h : w.toNat % 0x100 = kk.toNat) : fieldKK w = kk :=
  BitVec.eq_of_toNat_eq (by rw [toNat_fieldKK, h])
theorem fieldNNN_eq {w : Word} {nnn : BitVec 12} (h : w.toNat % 0x1000 = nnn.toNat) : fieldNNN w = nnn :=
  BitVec.eq_of_toNat_eq (by rw [toNat_fieldNNN, h])

@[simp] theorem fields_packNNN (op : BitVec 4) (nnn : BitVec 12) :
    fieldOp (packNNN op nnn) = op ∧ fieldNNN (packNNN op nnn) = nnn := by
  have h := toNat_packNNN op nnn
  have := nnn.isLt
  have := op.isLt
  exact ⟨fieldOp_eq (by omega), fieldNNN_eq (by omega)⟩

@[simp] theorem fields_packXKK (op : BitVec 4) (x : Reg) (kk : Byte) :
    fieldOp (packXKK op x kk) = op ∧ fieldX (packXKK op x kk) = x ∧ fieldKK (packXKK op x kk) = kk := by
  have h := toNat_packXKK op x kk
  have := kk.isLt
  have := op.isLt
  have := x.isLt
  exact ⟨fieldOp_eq (by omega), fieldX_eq (by omega), fieldKK_eq (by omega)⟩

@[simp] theorem fields_packXYN (op : BitVec 4) (x y : Reg) (n : BitVec 4) :
    fieldOp (packXYN op x y n) = op ∧ fieldX (packXYN op x y n) = x ∧ fieldY (packXYN op x y n) = y ∧
      fieldN (packXYN op x y n) = n := by
  have h := toNat_packXYN op x y n
  have := n.isLt
  have := op.isLt
  have := x.isLt
  have := y.isLt
  exact ⟨fieldOp_eq (by omega), fieldX_eq (by omega), fieldY_eq (by omega), fieldN_eq (by omega)⟩

theorem packNNN_fields {w : Word} {op : BitVec 4} (h : (fieldOp w).toNat = op.toNat) :
    packNNN op (fieldNNN w) = w := by
  apply BitVec.eq_of_toNat_eq
  rw [toNat_packNNN, toNat_fieldNNN, ← h, toNat_fieldOp]
  have := w.isLt
  omega

theorem packXKK_fields {w : Word} {op : BitVec 4} {kk : Byte} (h : (fieldOp w).toNat = op.toNat)
    (hk : fieldKK w = kk) : packXKK op (fieldX w) kk = w := by
  apply BitVec.eq_of_toNat_eq
  rw [toNat_packXKK, ← hk, toNat_fieldKK, val_fieldX, ← h, toNat_fieldOp]
  have := w.isLt
  omega

theorem packXYN_fields {w : Word} {op n : BitVec 4} (h : (fieldOp w).toNat = op.toNat) (hn : fieldN w = n) :
    packXYN op (fieldX w) (fieldY w) n = w := by
  apply BitVec.eq_of_toNat_eq
  rw [toNat_packXYN, ← hn, toNat_fieldN, val_fieldX, val_fieldY, ← h, toNat_fieldOp]
  have := w.isLt
  omega

/-- The two bytes of a word give the word back (R36). -/
theorem wordOfBytes_bytesOfWord (w : Word) : wordOfBytes (w.extractLsb' 8 8) (w.extractLsb' 0 8) = w := by
  apply BitVec.eq_of_toNat_eq
  rw [toNat_wordOfBytes, BitVec.extractLsb'_toNat, BitVec.extractLsb'_toNat, Nat.shiftRight_eq_div_pow]
  have := w.isLt
  simp
  omega

end Sys2Proof
end

