-- ==== Sys2Proof/Laws/Display.lean ====
section
/-!
SUPPORT. The display surface: a pixel read after a pixel is written (R120, R121), and one sprite bit drawn.
-/

namespace Sys2Proof.Machine

/-- The bits of a byte after one is set. -/
theorem getLsbD_withBit (byte : Byte) (i j : Nat) (b : Bool) (hi : i < 8) (hj : j < 8) :
    (withBit byte i b).getLsbD j = if j = i then b else byte.getLsbD j := by
  have h1 : (1#8 <<< i).getLsbD j = decide (j = i) := by
    rw [BitVec.getLsbD_shiftLeft]
    by_cases h : j = i
    · subst h; simp [hj]
    · by_cases hlt : j < i
      · simp [hlt, h]
      · have : j - i ≠ 0 := by omega
        simp [h, this, BitVec.getLsbD_one]
  unfold withBit
  by_cases hb : b
  · subst hb
    simp only [if_true, BitVec.getLsbD_or, h1]
    by_cases h : j = i <;> simp [h]
  · simp only [Bool.not_eq_true] at hb
    subst hb
    simp only [Bool.false_eq_true, if_false, BitVec.getLsbD_and, BitVec.getLsbD_not, h1]
    by_cases h : j = i <;> simp [h, hj]

/-- A pixel read after a pixel is written: the written one has the new value, every other keeps its own. -/
theorem Display.readPixel_writePixel (d : Display) (x x' : Fin 64) (y y' : Fin 32) (b : Bool) :
    (d.writePixel x y b).readPixel x' y' = if x' = x ∧ y' = y then b else d.readPixel x' y' := by
  unfold readPixel writePixel
  by_cases hy : y' = y
  · subst hy
    simp only [Vector.getElem_set_self]
    by_cases hbyte : x.val / 8 = x'.val / 8
    · simp only [Vector.getElem_set, hbyte, if_true]
      rw [getLsbD_withBit _ _ _ _ (Nat.mod_lt _ (by omega)) (Nat.mod_lt _ (by omega))]
      by_cases hx : x' = x
      · simp [hx]
      · have : ¬ (x'.val % 8 = x.val % 8) := fun h => hx (Fin.ext (by omega))
        simp [hx, this]
    · have hx : x' ≠ x := fun h => hbyte (by rw [h])
      simp [hbyte, hx]
  · have hy' : ¬ (y.val = y'.val) := fun h => hy (Fin.ext h.symm)
    simp [hy', hy]

/-- Every pixel of the cleared surface is dark. -/
theorem Display.readPixel_dark (x : Fin 64) (y : Fin 32) : Display.dark.readPixel x y = false := by
  simp [Display.dark, readPixel]

/-- One sprite bit toggles its pixel if it is set and leaves every other pixel alone. -/
theorem readPixel_drawBit (x0 y0 row : Byte) (r c : Nat) (p : Display × Bool) (x : Fin 64) (y : Fin 32) :
    (drawBit x0 y0 row r c p).1.readPixel x y =
      if spriteBit row c = true ∧ x = columnOf x0 c ∧ y = rowOf y0 r then !(p.1.readPixel x y)
      else p.1.readPixel x y := by
  unfold drawBit
  split
  · rename_i h
    simp only [Display.readPixel_writePixel, h, true_and]
    split
    · rename_i hxy; rw [hxy.1, hxy.2]
    · rfl
  · rename_i h
    simp [h]

/-- One sprite bit notes an erased pixel if it is set and its pixel was lit. -/
theorem erased_drawBit (x0 y0 row : Byte) (r c : Nat) (p : Display × Bool) :
    (drawBit x0 y0 row r c p).2 = (p.2 || (spriteBit row c && p.1.readPixel (columnOf x0 c) (rowOf y0 r))) := by
  unfold drawBit
  split
  · rename_i h; simp [h]
  · rename_i h; simp [h]

end Sys2Proof.Machine
end

