-- ==== Sys2Proof/Laws/Memory.lean ====
section
/-!
SUPPORT. Memory: reading after writing, and that every memory operation keeps the canonical form (log 31).
-/

namespace Sys2Proof.Machine

theorem Memory.readByte_putCell (a : Nat) (b : Byte) (m : Memory) (a' : Nat) :
    (Memory.putCell a b m).readByte a' = if a' = a then b else m.readByte a' := by
  induction m with
  | nil =>
    by_cases h : a' = a
    · simp [putCell, readByte, h]
    · simp [putCell, readByte, h, Ne.symm h]
  | cons cell m ih =>
    obtain ⟨k, c⟩ := cell
    simp only [putCell]
    split
    · by_cases h : a' = a
      · simp [readByte, h]
      · simp [readByte, h, Ne.symm h]
    · split
      · subst k
        by_cases h : a' = a
        · simp [readByte, h]
        · simp [readByte, h, Ne.symm h]
      · simp only [readByte, ih]
        by_cases h : a' = a
        · subst h
          rename_i h1 h2
          simp [Ne.symm h2]
        · simp [h]

/-- Below `lo` a canonical list reads as the reset contents. -/
theorem Memory.readByte_below {m : Memory} {lo a : Nat} (h : Memory.wfFrom lo m = true) (ha : a < lo) :
    m.readByte a = resetByte a := by
  induction m generalizing lo with
  | nil => rfl
  | cons cell m ih =>
    obtain ⟨k, c⟩ := cell
    simp only [wfFrom, Bool.and_eq_true, decide_eq_true_eq] at h
    have hne : k ≠ a := by omega
    simp only [readByte, hne, if_false]
    exact ih h.2 (by omega)

theorem Memory.readByte_dropCell {m : Memory} {lo : Nat} (h : Memory.wfFrom lo m = true) (a a' : Nat) :
    (Memory.dropCell a m).readByte a' = if a' = a then resetByte a' else m.readByte a' := by
  induction m generalizing lo with
  | nil => simp [dropCell, readByte]
  | cons cell m ih =>
    obtain ⟨k, c⟩ := cell
    simp only [wfFrom, Bool.and_eq_true, decide_eq_true_eq] at h
    simp only [dropCell]
    split
    · subst k
      by_cases h1 : a' = a
      · simp only [h1, if_true]
        exact readByte_below h.2 (by omega)
      · simp [readByte, h1, Ne.symm h1]
    · rename_i hk
      simp only [readByte, ih h.2]
      by_cases h1 : a' = a
      · subst h1
        simp [hk]
      · simp [h1]

theorem Memory.wfFrom_mono {m : Memory} {lo lo' : Nat} (h : Memory.wfFrom lo m = true) (hl : lo' ≤ lo) :
    Memory.wfFrom lo' m = true := by
  cases m with
  | nil => rfl
  | cons cell m =>
    simp only [wfFrom, Bool.and_eq_true, decide_eq_true_eq] at h ⊢
    exact ⟨⟨⟨by omega, h.1.1.2⟩, h.1.2⟩, h.2⟩

theorem Memory.wfFrom_putCell {m : Memory} {lo a : Nat} {b : Byte} (h : Memory.wfFrom lo m = true) (hl : lo ≤ a)
    (ha : a < Config.memSize) (hb : b ≠ resetByte a) : Memory.wfFrom lo (Memory.putCell a b m) = true := by
  induction m generalizing lo with
  | nil => simp [putCell, wfFrom, hl, ha, hb]
  | cons cell m ih =>
    obtain ⟨k, c⟩ := cell
    simp only [wfFrom, Bool.and_eq_true, decide_eq_true_eq] at h
    simp only [putCell]
    split
    · simp only [wfFrom, Bool.and_eq_true, decide_eq_true_eq]
      exact ⟨⟨⟨hl, ha⟩, hb⟩, ⟨⟨⟨by omega, h.1.1.2⟩, h.1.2⟩, h.2⟩⟩
    · split
      · subst k
        simp only [wfFrom, Bool.and_eq_true, decide_eq_true_eq]
        exact ⟨⟨⟨hl, ha⟩, hb⟩, h.2⟩
      · simp only [wfFrom, Bool.and_eq_true, decide_eq_true_eq]
        exact ⟨h.1, ih h.2 (by omega)⟩

theorem Memory.wfFrom_dropCell {m : Memory} {lo : Nat} (a : Nat) (h : Memory.wfFrom lo m = true) :
    Memory.wfFrom lo (Memory.dropCell a m) = true := by
  induction m generalizing lo with
  | nil => rfl
  | cons cell m ih =>
    obtain ⟨k, c⟩ := cell
    have h' := h
    simp only [wfFrom, Bool.and_eq_true, decide_eq_true_eq] at h'
    simp only [dropCell]
    split
    · exact wfFrom_mono h'.2 (by omega)
    · simp only [wfFrom, Bool.and_eq_true, decide_eq_true_eq]
      exact ⟨h'.1, ih h'.2⟩

/-- One byte written keeps the canonical form. -/
theorem Memory.wf_writeByte {m : Memory} (h : m.wf = true) (a : Nat) (b : Byte) : (m.writeByte a b).wf = true := by
  unfold writeByte wf at *
  split
  · split
    · exact wfFrom_dropCell a h
    · exact wfFrom_putCell h (Nat.zero_le a) ‹_› ‹_›
  · exact h

/-- Reading after one byte is written. -/
theorem Memory.readByte_writeByte {m : Memory} (h : m.wf = true) {a : Nat} (ha : a < Config.memSize) (b : Byte)
    (a' : Nat) : (m.writeByte a b).readByte a' = if a' = a then b else m.readByte a' := by
  unfold writeByte
  simp only [ha, if_true]
  split
  · rename_i hb
    rw [readByte_dropCell h]
    by_cases h1 : a' = a
    · simp [h1, hb]
    · simp [h1]
  · exact readByte_putCell a b m a'

/-- Another address reads as before, whatever the form of the list. -/
theorem Memory.readByte_dropCell_ne (m : Memory) {a a' : Nat} (h : a' ≠ a) :
    (Memory.dropCell a m).readByte a' = m.readByte a' := by
  induction m with
  | nil => rfl
  | cons cell m ih =>
    obtain ⟨k, c⟩ := cell
    simp only [dropCell]
    split
    · subst k; simp [readByte, Ne.symm h]
    · simp [readByte, ih]

theorem Memory.readByte_writeByte_ne (m : Memory) {a a' : Nat} (b : Byte) (h : a' ≠ a) :
    (m.writeByte a b).readByte a' = m.readByte a' := by
  unfold writeByte
  split
  · split
    · exact readByte_dropCell_ne m h
    · rw [readByte_putCell, if_neg h]
  · rfl

/-- Bytes written keep the canonical form. -/
theorem Memory.wf_writeBytes {m : Memory} (h : m.wf = true) (a : Nat) (bs : List Byte) :
    (m.writeBytes a bs).wf = true := by
  induction bs generalizing m a with
  | nil => exact h
  | cons b bs ih => exact ih (wf_writeByte h a b) (a + 1)

/-- Addresses outside the bytes written read as before. -/
theorem Memory.readByte_writeBytes_outside (m : Memory) (bs : List Byte) {a a' : Nat}
    (h : a' < a ∨ a + bs.length ≤ a') : (m.writeBytes a bs).readByte a' = m.readByte a' := by
  induction bs generalizing m a with
  | nil => rfl
  | cons b bs ih =>
    simp only [List.length_cons] at h
    rw [writeBytes, ih (m.writeByte a b) (by omega), readByte_writeByte_ne m b (by omega)]

/-- The `k`-th byte written is read back. -/
theorem Memory.readByte_writeBytes_inside {m : Memory} (hm : m.wf = true) (bs : List Byte) {a : Nat}
    (ha : a + bs.length ≤ Config.memSize) {k : Nat} (hk : k < bs.length) :
    (m.writeBytes a bs).readByte (a + k) = bs[k] := by
  induction bs generalizing m a k with
  | nil => simp at hk
  | cons b bs ih =>
    simp only [List.length_cons] at ha hk
    cases k with
    | zero =>
      rw [writeBytes, readByte_writeBytes_outside _ _ (by omega), readByte_writeByte hm (by omega)]
      simp
    | succ k =>
      have := ih (wf_writeByte hm a b) (a := a + 1) (by omega) (k := k) (by omega)
      rw [writeBytes, show a + (k + 1) = a + 1 + k by omega, this]
      rfl

@[simp] theorem Memory.length_readBytes (m : Memory) (a n : Nat) : (m.readBytes a n).length = n := by
  induction n generalizing a with
  | zero => rfl
  | succ n ih => simp [readBytes, ih]

/-- The `k`-th byte read is the byte at `a + k`. -/
theorem Memory.getElem_readBytes (m : Memory) (a n k : Nat) (hk : k < (m.readBytes a n).length) :
    (m.readBytes a n)[k] = m.readByte (a + k) := by
  induction n generalizing a k with
  | zero => simp [readBytes] at hk
  | succ n ih =>
    cases k with
    | zero => rfl
    | succ k =>
      have := ih (a + 1) k (by simpa [readBytes] using hk)
      simp only [readBytes, List.getElem_cons_succ, this]
      congr 1
      omega

/-- The memory of the machine after reset has the canonical form. -/
theorem reset_memory_wf : State.reset.memory.wf = true := rfl

end Sys2Proof.Machine
end

