-- ==== Sys2Proof/Laws/State.lean ====
section
/-!
SUPPORT. One lemma per field per update of State, true by definition: no later proof unfolds a record update.
-/

namespace Sys2Proof.Machine

/-! ## `State.halt` -/

@[simp] theorem State.halt_v (s : State) (c : Fault) : (s.halt c).v = s.v := rfl
@[simp] theorem State.halt_pc (s : State) (c : Fault) : (s.halt c).pc = s.pc := rfl
@[simp] theorem State.halt_sp (s : State) (c : Fault) : (s.halt c).sp = s.sp := rfl
@[simp] theorem State.halt_stack (s : State) (c : Fault) : (s.halt c).stack = s.stack := rfl
@[simp] theorem State.halt_index (s : State) (c : Fault) : (s.halt c).index = s.index := rfl
@[simp] theorem State.halt_delayTimer (s : State) (c : Fault) : (s.halt c).delayTimer = s.delayTimer := rfl
@[simp] theorem State.halt_soundTimer (s : State) (c : Fault) : (s.halt c).soundTimer = s.soundTimer := rfl
@[simp] theorem State.halt_delayAccumulator (s : State) (c : Fault) : (s.halt c).delayAccumulator = s.delayAccumulator := rfl
@[simp] theorem State.halt_instructionAccumulator (s : State) (c : Fault) : (s.halt c).instructionAccumulator = s.instructionAccumulator := rfl
@[simp] theorem State.halt_memory (s : State) (c : Fault) : (s.halt c).memory = s.memory := rfl
@[simp] theorem State.halt_keyState (s : State) (c : Fault) : (s.halt c).keyState = s.keyState := rfl
@[simp] theorem State.halt_keyStatePrev (s : State) (c : Fault) : (s.halt c).keyStatePrev = s.keyStatePrev := rfl
@[simp] theorem State.halt_isWaitingForKey (s : State) (c : Fault) : (s.halt c).isWaitingForKey = s.isWaitingForKey := rfl
@[simp] theorem State.halt_display (s : State) (c : Fault) : (s.halt c).display = s.display := rfl
@[simp] theorem State.halt_fault (s : State) (c : Fault) : (s.halt c).fault = some c := rfl
@[simp] theorem State.halt_draws (s : State) (c : Fault) : (s.halt c).draws = s.draws := rfl
@[simp] theorem State.halt_loadable (s : State) (c : Fault) : (s.halt c).loadable = s.loadable := rfl

/-! ## `State.setV` -/

@[simp] theorem State.setV_v (s : State) (r : Reg) (b : Byte) : (s.setV r b).v = s.v.set r.val b := rfl
@[simp] theorem State.setV_pc (s : State) (r : Reg) (b : Byte) : (s.setV r b).pc = s.pc := rfl
@[simp] theorem State.setV_sp (s : State) (r : Reg) (b : Byte) : (s.setV r b).sp = s.sp := rfl
@[simp] theorem State.setV_stack (s : State) (r : Reg) (b : Byte) : (s.setV r b).stack = s.stack := rfl
@[simp] theorem State.setV_index (s : State) (r : Reg) (b : Byte) : (s.setV r b).index = s.index := rfl
@[simp] theorem State.setV_delayTimer (s : State) (r : Reg) (b : Byte) : (s.setV r b).delayTimer = s.delayTimer := rfl
@[simp] theorem State.setV_soundTimer (s : State) (r : Reg) (b : Byte) : (s.setV r b).soundTimer = s.soundTimer := rfl
@[simp] theorem State.setV_delayAccumulator (s : State) (r : Reg) (b : Byte) : (s.setV r b).delayAccumulator = s.delayAccumulator := rfl
@[simp] theorem State.setV_instructionAccumulator (s : State) (r : Reg) (b : Byte) : (s.setV r b).instructionAccumulator = s.instructionAccumulator := rfl
@[simp] theorem State.setV_memory (s : State) (r : Reg) (b : Byte) : (s.setV r b).memory = s.memory := rfl
@[simp] theorem State.setV_keyState (s : State) (r : Reg) (b : Byte) : (s.setV r b).keyState = s.keyState := rfl
@[simp] theorem State.setV_keyStatePrev (s : State) (r : Reg) (b : Byte) : (s.setV r b).keyStatePrev = s.keyStatePrev := rfl
@[simp] theorem State.setV_isWaitingForKey (s : State) (r : Reg) (b : Byte) : (s.setV r b).isWaitingForKey = s.isWaitingForKey := rfl
@[simp] theorem State.setV_display (s : State) (r : Reg) (b : Byte) : (s.setV r b).display = s.display := rfl
@[simp] theorem State.setV_fault (s : State) (r : Reg) (b : Byte) : (s.setV r b).fault = s.fault := rfl
@[simp] theorem State.setV_draws (s : State) (r : Reg) (b : Byte) : (s.setV r b).draws = s.draws := rfl
@[simp] theorem State.setV_loadable (s : State) (r : Reg) (b : Byte) : (s.setV r b).loadable = s.loadable := rfl

/-! ## `State.setRegs` -/

@[simp] theorem State.setRegs_v (s : State) (w : Regs) : (s.setRegs w).v = w := rfl
@[simp] theorem State.setRegs_pc (s : State) (w : Regs) : (s.setRegs w).pc = s.pc := rfl
@[simp] theorem State.setRegs_sp (s : State) (w : Regs) : (s.setRegs w).sp = s.sp := rfl
@[simp] theorem State.setRegs_stack (s : State) (w : Regs) : (s.setRegs w).stack = s.stack := rfl
@[simp] theorem State.setRegs_index (s : State) (w : Regs) : (s.setRegs w).index = s.index := rfl
@[simp] theorem State.setRegs_delayTimer (s : State) (w : Regs) : (s.setRegs w).delayTimer = s.delayTimer := rfl
@[simp] theorem State.setRegs_soundTimer (s : State) (w : Regs) : (s.setRegs w).soundTimer = s.soundTimer := rfl
@[simp] theorem State.setRegs_delayAccumulator (s : State) (w : Regs) : (s.setRegs w).delayAccumulator = s.delayAccumulator := rfl
@[simp] theorem State.setRegs_instructionAccumulator (s : State) (w : Regs) : (s.setRegs w).instructionAccumulator = s.instructionAccumulator := rfl
@[simp] theorem State.setRegs_memory (s : State) (w : Regs) : (s.setRegs w).memory = s.memory := rfl
@[simp] theorem State.setRegs_keyState (s : State) (w : Regs) : (s.setRegs w).keyState = s.keyState := rfl
@[simp] theorem State.setRegs_keyStatePrev (s : State) (w : Regs) : (s.setRegs w).keyStatePrev = s.keyStatePrev := rfl
@[simp] theorem State.setRegs_isWaitingForKey (s : State) (w : Regs) : (s.setRegs w).isWaitingForKey = s.isWaitingForKey := rfl
@[simp] theorem State.setRegs_display (s : State) (w : Regs) : (s.setRegs w).display = s.display := rfl
@[simp] theorem State.setRegs_fault (s : State) (w : Regs) : (s.setRegs w).fault = s.fault := rfl
@[simp] theorem State.setRegs_draws (s : State) (w : Regs) : (s.setRegs w).draws = s.draws := rfl
@[simp] theorem State.setRegs_loadable (s : State) (w : Regs) : (s.setRegs w).loadable = s.loadable := rfl

/-! ## `State.setPc` -/

@[simp] theorem State.setPc_v (s : State) (t : Word) : (s.setPc t).v = s.v := rfl
@[simp] theorem State.setPc_pc (s : State) (t : Word) : (s.setPc t).pc = t := rfl
@[simp] theorem State.setPc_sp (s : State) (t : Word) : (s.setPc t).sp = s.sp := rfl
@[simp] theorem State.setPc_stack (s : State) (t : Word) : (s.setPc t).stack = s.stack := rfl
@[simp] theorem State.setPc_index (s : State) (t : Word) : (s.setPc t).index = s.index := rfl
@[simp] theorem State.setPc_delayTimer (s : State) (t : Word) : (s.setPc t).delayTimer = s.delayTimer := rfl
@[simp] theorem State.setPc_soundTimer (s : State) (t : Word) : (s.setPc t).soundTimer = s.soundTimer := rfl
@[simp] theorem State.setPc_delayAccumulator (s : State) (t : Word) : (s.setPc t).delayAccumulator = s.delayAccumulator := rfl
@[simp] theorem State.setPc_instructionAccumulator (s : State) (t : Word) : (s.setPc t).instructionAccumulator = s.instructionAccumulator := rfl
@[simp] theorem State.setPc_memory (s : State) (t : Word) : (s.setPc t).memory = s.memory := rfl
@[simp] theorem State.setPc_keyState (s : State) (t : Word) : (s.setPc t).keyState = s.keyState := rfl
@[simp] theorem State.setPc_keyStatePrev (s : State) (t : Word) : (s.setPc t).keyStatePrev = s.keyStatePrev := rfl
@[simp] theorem State.setPc_isWaitingForKey (s : State) (t : Word) : (s.setPc t).isWaitingForKey = s.isWaitingForKey := rfl
@[simp] theorem State.setPc_display (s : State) (t : Word) : (s.setPc t).display = s.display := rfl
@[simp] theorem State.setPc_fault (s : State) (t : Word) : (s.setPc t).fault = s.fault := rfl
@[simp] theorem State.setPc_draws (s : State) (t : Word) : (s.setPc t).draws = s.draws := rfl
@[simp] theorem State.setPc_loadable (s : State) (t : Word) : (s.setPc t).loadable = s.loadable := rfl

/-! ## `State.setIndex` -/

@[simp] theorem State.setIndex_v (s : State) (a : Word) : (s.setIndex a).v = s.v := rfl
@[simp] theorem State.setIndex_pc (s : State) (a : Word) : (s.setIndex a).pc = s.pc := rfl
@[simp] theorem State.setIndex_sp (s : State) (a : Word) : (s.setIndex a).sp = s.sp := rfl
@[simp] theorem State.setIndex_stack (s : State) (a : Word) : (s.setIndex a).stack = s.stack := rfl
@[simp] theorem State.setIndex_index (s : State) (a : Word) : (s.setIndex a).index = a := rfl
@[simp] theorem State.setIndex_delayTimer (s : State) (a : Word) : (s.setIndex a).delayTimer = s.delayTimer := rfl
@[simp] theorem State.setIndex_soundTimer (s : State) (a : Word) : (s.setIndex a).soundTimer = s.soundTimer := rfl
@[simp] theorem State.setIndex_delayAccumulator (s : State) (a : Word) : (s.setIndex a).delayAccumulator = s.delayAccumulator := rfl
@[simp] theorem State.setIndex_instructionAccumulator (s : State) (a : Word) : (s.setIndex a).instructionAccumulator = s.instructionAccumulator := rfl
@[simp] theorem State.setIndex_memory (s : State) (a : Word) : (s.setIndex a).memory = s.memory := rfl
@[simp] theorem State.setIndex_keyState (s : State) (a : Word) : (s.setIndex a).keyState = s.keyState := rfl
@[simp] theorem State.setIndex_keyStatePrev (s : State) (a : Word) : (s.setIndex a).keyStatePrev = s.keyStatePrev := rfl
@[simp] theorem State.setIndex_isWaitingForKey (s : State) (a : Word) : (s.setIndex a).isWaitingForKey = s.isWaitingForKey := rfl
@[simp] theorem State.setIndex_display (s : State) (a : Word) : (s.setIndex a).display = s.display := rfl
@[simp] theorem State.setIndex_fault (s : State) (a : Word) : (s.setIndex a).fault = s.fault := rfl
@[simp] theorem State.setIndex_draws (s : State) (a : Word) : (s.setIndex a).draws = s.draws := rfl
@[simp] theorem State.setIndex_loadable (s : State) (a : Word) : (s.setIndex a).loadable = s.loadable := rfl

/-! ## `State.setDelayTimer` -/

@[simp] theorem State.setDelayTimer_v (s : State) (b : Byte) : (s.setDelayTimer b).v = s.v := rfl
@[simp] theorem State.setDelayTimer_pc (s : State) (b : Byte) : (s.setDelayTimer b).pc = s.pc := rfl
@[simp] theorem State.setDelayTimer_sp (s : State) (b : Byte) : (s.setDelayTimer b).sp = s.sp := rfl
@[simp] theorem State.setDelayTimer_stack (s : State) (b : Byte) : (s.setDelayTimer b).stack = s.stack := rfl
@[simp] theorem State.setDelayTimer_index (s : State) (b : Byte) : (s.setDelayTimer b).index = s.index := rfl
@[simp] theorem State.setDelayTimer_delayTimer (s : State) (b : Byte) : (s.setDelayTimer b).delayTimer = b := rfl
@[simp] theorem State.setDelayTimer_soundTimer (s : State) (b : Byte) : (s.setDelayTimer b).soundTimer = s.soundTimer := rfl
@[simp] theorem State.setDelayTimer_delayAccumulator (s : State) (b : Byte) : (s.setDelayTimer b).delayAccumulator = s.delayAccumulator := rfl
@[simp] theorem State.setDelayTimer_instructionAccumulator (s : State) (b : Byte) : (s.setDelayTimer b).instructionAccumulator = s.instructionAccumulator := rfl
@[simp] theorem State.setDelayTimer_memory (s : State) (b : Byte) : (s.setDelayTimer b).memory = s.memory := rfl
@[simp] theorem State.setDelayTimer_keyState (s : State) (b : Byte) : (s.setDelayTimer b).keyState = s.keyState := rfl
@[simp] theorem State.setDelayTimer_keyStatePrev (s : State) (b : Byte) : (s.setDelayTimer b).keyStatePrev = s.keyStatePrev := rfl
@[simp] theorem State.setDelayTimer_isWaitingForKey (s : State) (b : Byte) : (s.setDelayTimer b).isWaitingForKey = s.isWaitingForKey := rfl
@[simp] theorem State.setDelayTimer_display (s : State) (b : Byte) : (s.setDelayTimer b).display = s.display := rfl
@[simp] theorem State.setDelayTimer_fault (s : State) (b : Byte) : (s.setDelayTimer b).fault = s.fault := rfl
@[simp] theorem State.setDelayTimer_draws (s : State) (b : Byte) : (s.setDelayTimer b).draws = s.draws := rfl
@[simp] theorem State.setDelayTimer_loadable (s : State) (b : Byte) : (s.setDelayTimer b).loadable = s.loadable := rfl

/-! ## `State.setSoundTimer` -/

@[simp] theorem State.setSoundTimer_v (s : State) (b : Byte) : (s.setSoundTimer b).v = s.v := rfl
@[simp] theorem State.setSoundTimer_pc (s : State) (b : Byte) : (s.setSoundTimer b).pc = s.pc := rfl
@[simp] theorem State.setSoundTimer_sp (s : State) (b : Byte) : (s.setSoundTimer b).sp = s.sp := rfl
@[simp] theorem State.setSoundTimer_stack (s : State) (b : Byte) : (s.setSoundTimer b).stack = s.stack := rfl
@[simp] theorem State.setSoundTimer_index (s : State) (b : Byte) : (s.setSoundTimer b).index = s.index := rfl
@[simp] theorem State.setSoundTimer_delayTimer (s : State) (b : Byte) : (s.setSoundTimer b).delayTimer = s.delayTimer := rfl
@[simp] theorem State.setSoundTimer_soundTimer (s : State) (b : Byte) : (s.setSoundTimer b).soundTimer = b := rfl
@[simp] theorem State.setSoundTimer_delayAccumulator (s : State) (b : Byte) : (s.setSoundTimer b).delayAccumulator = s.delayAccumulator := rfl
@[simp] theorem State.setSoundTimer_instructionAccumulator (s : State) (b : Byte) : (s.setSoundTimer b).instructionAccumulator = s.instructionAccumulator := rfl
@[simp] theorem State.setSoundTimer_memory (s : State) (b : Byte) : (s.setSoundTimer b).memory = s.memory := rfl
@[simp] theorem State.setSoundTimer_keyState (s : State) (b : Byte) : (s.setSoundTimer b).keyState = s.keyState := rfl
@[simp] theorem State.setSoundTimer_keyStatePrev (s : State) (b : Byte) : (s.setSoundTimer b).keyStatePrev = s.keyStatePrev := rfl
@[simp] theorem State.setSoundTimer_isWaitingForKey (s : State) (b : Byte) : (s.setSoundTimer b).isWaitingForKey = s.isWaitingForKey := rfl
@[simp] theorem State.setSoundTimer_display (s : State) (b : Byte) : (s.setSoundTimer b).display = s.display := rfl
@[simp] theorem State.setSoundTimer_fault (s : State) (b : Byte) : (s.setSoundTimer b).fault = s.fault := rfl
@[simp] theorem State.setSoundTimer_draws (s : State) (b : Byte) : (s.setSoundTimer b).draws = s.draws := rfl
@[simp] theorem State.setSoundTimer_loadable (s : State) (b : Byte) : (s.setSoundTimer b).loadable = s.loadable := rfl

/-! ## `State.setMemory` -/

@[simp] theorem State.setMemory_v (s : State) (m : Memory) : (s.setMemory m).v = s.v := rfl
@[simp] theorem State.setMemory_pc (s : State) (m : Memory) : (s.setMemory m).pc = s.pc := rfl
@[simp] theorem State.setMemory_sp (s : State) (m : Memory) : (s.setMemory m).sp = s.sp := rfl
@[simp] theorem State.setMemory_stack (s : State) (m : Memory) : (s.setMemory m).stack = s.stack := rfl
@[simp] theorem State.setMemory_index (s : State) (m : Memory) : (s.setMemory m).index = s.index := rfl
@[simp] theorem State.setMemory_delayTimer (s : State) (m : Memory) : (s.setMemory m).delayTimer = s.delayTimer := rfl
@[simp] theorem State.setMemory_soundTimer (s : State) (m : Memory) : (s.setMemory m).soundTimer = s.soundTimer := rfl
@[simp] theorem State.setMemory_delayAccumulator (s : State) (m : Memory) : (s.setMemory m).delayAccumulator = s.delayAccumulator := rfl
@[simp] theorem State.setMemory_instructionAccumulator (s : State) (m : Memory) : (s.setMemory m).instructionAccumulator = s.instructionAccumulator := rfl
@[simp] theorem State.setMemory_memory (s : State) (m : Memory) : (s.setMemory m).memory = m := rfl
@[simp] theorem State.setMemory_keyState (s : State) (m : Memory) : (s.setMemory m).keyState = s.keyState := rfl
@[simp] theorem State.setMemory_keyStatePrev (s : State) (m : Memory) : (s.setMemory m).keyStatePrev = s.keyStatePrev := rfl
@[simp] theorem State.setMemory_isWaitingForKey (s : State) (m : Memory) : (s.setMemory m).isWaitingForKey = s.isWaitingForKey := rfl
@[simp] theorem State.setMemory_display (s : State) (m : Memory) : (s.setMemory m).display = s.display := rfl
@[simp] theorem State.setMemory_fault (s : State) (m : Memory) : (s.setMemory m).fault = s.fault := rfl
@[simp] theorem State.setMemory_draws (s : State) (m : Memory) : (s.setMemory m).draws = s.draws := rfl
@[simp] theorem State.setMemory_loadable (s : State) (m : Memory) : (s.setMemory m).loadable = s.loadable := rfl

/-! ## `State.setWaiting` -/

@[simp] theorem State.setWaiting_v (s : State) (w : Bool) : (s.setWaiting w).v = s.v := rfl
@[simp] theorem State.setWaiting_pc (s : State) (w : Bool) : (s.setWaiting w).pc = s.pc := rfl
@[simp] theorem State.setWaiting_sp (s : State) (w : Bool) : (s.setWaiting w).sp = s.sp := rfl
@[simp] theorem State.setWaiting_stack (s : State) (w : Bool) : (s.setWaiting w).stack = s.stack := rfl
@[simp] theorem State.setWaiting_index (s : State) (w : Bool) : (s.setWaiting w).index = s.index := rfl
@[simp] theorem State.setWaiting_delayTimer (s : State) (w : Bool) : (s.setWaiting w).delayTimer = s.delayTimer := rfl
@[simp] theorem State.setWaiting_soundTimer (s : State) (w : Bool) : (s.setWaiting w).soundTimer = s.soundTimer := rfl
@[simp] theorem State.setWaiting_delayAccumulator (s : State) (w : Bool) : (s.setWaiting w).delayAccumulator = s.delayAccumulator := rfl
@[simp] theorem State.setWaiting_instructionAccumulator (s : State) (w : Bool) : (s.setWaiting w).instructionAccumulator = s.instructionAccumulator := rfl
@[simp] theorem State.setWaiting_memory (s : State) (w : Bool) : (s.setWaiting w).memory = s.memory := rfl
@[simp] theorem State.setWaiting_keyState (s : State) (w : Bool) : (s.setWaiting w).keyState = s.keyState := rfl
@[simp] theorem State.setWaiting_keyStatePrev (s : State) (w : Bool) : (s.setWaiting w).keyStatePrev = s.keyStatePrev := rfl
@[simp] theorem State.setWaiting_isWaitingForKey (s : State) (w : Bool) : (s.setWaiting w).isWaitingForKey = w := rfl
@[simp] theorem State.setWaiting_display (s : State) (w : Bool) : (s.setWaiting w).display = s.display := rfl
@[simp] theorem State.setWaiting_fault (s : State) (w : Bool) : (s.setWaiting w).fault = s.fault := rfl
@[simp] theorem State.setWaiting_draws (s : State) (w : Bool) : (s.setWaiting w).draws = s.draws := rfl
@[simp] theorem State.setWaiting_loadable (s : State) (w : Bool) : (s.setWaiting w).loadable = s.loadable := rfl

/-! ## `State.setDisplay` -/

@[simp] theorem State.setDisplay_v (s : State) (d : Display) : (s.setDisplay d).v = s.v := rfl
@[simp] theorem State.setDisplay_pc (s : State) (d : Display) : (s.setDisplay d).pc = s.pc := rfl
@[simp] theorem State.setDisplay_sp (s : State) (d : Display) : (s.setDisplay d).sp = s.sp := rfl
@[simp] theorem State.setDisplay_stack (s : State) (d : Display) : (s.setDisplay d).stack = s.stack := rfl
@[simp] theorem State.setDisplay_index (s : State) (d : Display) : (s.setDisplay d).index = s.index := rfl
@[simp] theorem State.setDisplay_delayTimer (s : State) (d : Display) : (s.setDisplay d).delayTimer = s.delayTimer := rfl
@[simp] theorem State.setDisplay_soundTimer (s : State) (d : Display) : (s.setDisplay d).soundTimer = s.soundTimer := rfl
@[simp] theorem State.setDisplay_delayAccumulator (s : State) (d : Display) : (s.setDisplay d).delayAccumulator = s.delayAccumulator := rfl
@[simp] theorem State.setDisplay_instructionAccumulator (s : State) (d : Display) : (s.setDisplay d).instructionAccumulator = s.instructionAccumulator := rfl
@[simp] theorem State.setDisplay_memory (s : State) (d : Display) : (s.setDisplay d).memory = s.memory := rfl
@[simp] theorem State.setDisplay_keyState (s : State) (d : Display) : (s.setDisplay d).keyState = s.keyState := rfl
@[simp] theorem State.setDisplay_keyStatePrev (s : State) (d : Display) : (s.setDisplay d).keyStatePrev = s.keyStatePrev := rfl
@[simp] theorem State.setDisplay_isWaitingForKey (s : State) (d : Display) : (s.setDisplay d).isWaitingForKey = s.isWaitingForKey := rfl
@[simp] theorem State.setDisplay_display (s : State) (d : Display) : (s.setDisplay d).display = d := rfl
@[simp] theorem State.setDisplay_fault (s : State) (d : Display) : (s.setDisplay d).fault = s.fault := rfl
@[simp] theorem State.setDisplay_draws (s : State) (d : Display) : (s.setDisplay d).draws = s.draws := rfl
@[simp] theorem State.setDisplay_loadable (s : State) (d : Display) : (s.setDisplay d).loadable = s.loadable := rfl

/-! ## `State.countDraw` -/

@[simp] theorem State.countDraw_v (s : State) : (s.countDraw).v = s.v := rfl
@[simp] theorem State.countDraw_pc (s : State) : (s.countDraw).pc = s.pc := rfl
@[simp] theorem State.countDraw_sp (s : State) : (s.countDraw).sp = s.sp := rfl
@[simp] theorem State.countDraw_stack (s : State) : (s.countDraw).stack = s.stack := rfl
@[simp] theorem State.countDraw_index (s : State) : (s.countDraw).index = s.index := rfl
@[simp] theorem State.countDraw_delayTimer (s : State) : (s.countDraw).delayTimer = s.delayTimer := rfl
@[simp] theorem State.countDraw_soundTimer (s : State) : (s.countDraw).soundTimer = s.soundTimer := rfl
@[simp] theorem State.countDraw_delayAccumulator (s : State) : (s.countDraw).delayAccumulator = s.delayAccumulator := rfl
@[simp] theorem State.countDraw_instructionAccumulator (s : State) : (s.countDraw).instructionAccumulator = s.instructionAccumulator := rfl
@[simp] theorem State.countDraw_memory (s : State) : (s.countDraw).memory = s.memory := rfl
@[simp] theorem State.countDraw_keyState (s : State) : (s.countDraw).keyState = s.keyState := rfl
@[simp] theorem State.countDraw_keyStatePrev (s : State) : (s.countDraw).keyStatePrev = s.keyStatePrev := rfl
@[simp] theorem State.countDraw_isWaitingForKey (s : State) : (s.countDraw).isWaitingForKey = s.isWaitingForKey := rfl
@[simp] theorem State.countDraw_display (s : State) : (s.countDraw).display = s.display := rfl
@[simp] theorem State.countDraw_fault (s : State) : (s.countDraw).fault = s.fault := rfl
@[simp] theorem State.countDraw_draws (s : State) : (s.countDraw).draws = s.draws + 1 := rfl
@[simp] theorem State.countDraw_loadable (s : State) : (s.countDraw).loadable = s.loadable := rfl

/-! ## `State.push` -/

@[simp] theorem State.push_v (s : State) (a : Word) : (s.push a).v = s.v := rfl
@[simp] theorem State.push_pc (s : State) (a : Word) : (s.push a).pc = s.pc := rfl
@[simp] theorem State.push_sp (s : State) (a : Word) : (s.push a).sp = s.sp + 1 := rfl
@[simp] theorem State.push_stack (s : State) (a : Word) : (s.push a).stack = s.stack.setIfInBounds s.sp.val a := rfl
@[simp] theorem State.push_index (s : State) (a : Word) : (s.push a).index = s.index := rfl
@[simp] theorem State.push_delayTimer (s : State) (a : Word) : (s.push a).delayTimer = s.delayTimer := rfl
@[simp] theorem State.push_soundTimer (s : State) (a : Word) : (s.push a).soundTimer = s.soundTimer := rfl
@[simp] theorem State.push_delayAccumulator (s : State) (a : Word) : (s.push a).delayAccumulator = s.delayAccumulator := rfl
@[simp] theorem State.push_instructionAccumulator (s : State) (a : Word) : (s.push a).instructionAccumulator = s.instructionAccumulator := rfl
@[simp] theorem State.push_memory (s : State) (a : Word) : (s.push a).memory = s.memory := rfl
@[simp] theorem State.push_keyState (s : State) (a : Word) : (s.push a).keyState = s.keyState := rfl
@[simp] theorem State.push_keyStatePrev (s : State) (a : Word) : (s.push a).keyStatePrev = s.keyStatePrev := rfl
@[simp] theorem State.push_isWaitingForKey (s : State) (a : Word) : (s.push a).isWaitingForKey = s.isWaitingForKey := rfl
@[simp] theorem State.push_display (s : State) (a : Word) : (s.push a).display = s.display := rfl
@[simp] theorem State.push_fault (s : State) (a : Word) : (s.push a).fault = s.fault := rfl
@[simp] theorem State.push_draws (s : State) (a : Word) : (s.push a).draws = s.draws := rfl
@[simp] theorem State.push_loadable (s : State) (a : Word) : (s.push a).loadable = s.loadable := rfl

/-! ## `State.pop` -/

@[simp] theorem State.pop_v (s : State) : (s.pop).v = s.v := rfl
@[simp] theorem State.pop_pc (s : State) : (s.pop).pc = s.pc := rfl
@[simp] theorem State.pop_sp (s : State) : (s.pop).sp = s.sp - 1 := rfl
@[simp] theorem State.pop_stack (s : State) : (s.pop).stack = s.stack := rfl
@[simp] theorem State.pop_index (s : State) : (s.pop).index = s.index := rfl
@[simp] theorem State.pop_delayTimer (s : State) : (s.pop).delayTimer = s.delayTimer := rfl
@[simp] theorem State.pop_soundTimer (s : State) : (s.pop).soundTimer = s.soundTimer := rfl
@[simp] theorem State.pop_delayAccumulator (s : State) : (s.pop).delayAccumulator = s.delayAccumulator := rfl
@[simp] theorem State.pop_instructionAccumulator (s : State) : (s.pop).instructionAccumulator = s.instructionAccumulator := rfl
@[simp] theorem State.pop_memory (s : State) : (s.pop).memory = s.memory := rfl
@[simp] theorem State.pop_keyState (s : State) : (s.pop).keyState = s.keyState := rfl
@[simp] theorem State.pop_keyStatePrev (s : State) : (s.pop).keyStatePrev = s.keyStatePrev := rfl
@[simp] theorem State.pop_isWaitingForKey (s : State) : (s.pop).isWaitingForKey = s.isWaitingForKey := rfl
@[simp] theorem State.pop_display (s : State) : (s.pop).display = s.display := rfl
@[simp] theorem State.pop_fault (s : State) : (s.pop).fault = s.fault := rfl
@[simp] theorem State.pop_draws (s : State) : (s.pop).draws = s.draws := rfl
@[simp] theorem State.pop_loadable (s : State) : (s.pop).loadable = s.loadable := rfl

/-! ## `State.snapshot` -/

@[simp] theorem State.snapshot_v (s : State) : (s.snapshot).v = s.v := rfl
@[simp] theorem State.snapshot_pc (s : State) : (s.snapshot).pc = s.pc := rfl
@[simp] theorem State.snapshot_sp (s : State) : (s.snapshot).sp = s.sp := rfl
@[simp] theorem State.snapshot_stack (s : State) : (s.snapshot).stack = s.stack := rfl
@[simp] theorem State.snapshot_index (s : State) : (s.snapshot).index = s.index := rfl
@[simp] theorem State.snapshot_delayTimer (s : State) : (s.snapshot).delayTimer = s.delayTimer := rfl
@[simp] theorem State.snapshot_soundTimer (s : State) : (s.snapshot).soundTimer = s.soundTimer := rfl
@[simp] theorem State.snapshot_delayAccumulator (s : State) : (s.snapshot).delayAccumulator = s.delayAccumulator := rfl
@[simp] theorem State.snapshot_instructionAccumulator (s : State) : (s.snapshot).instructionAccumulator = s.instructionAccumulator := rfl
@[simp] theorem State.snapshot_memory (s : State) : (s.snapshot).memory = s.memory := rfl
@[simp] theorem State.snapshot_keyState (s : State) : (s.snapshot).keyState = s.keyState := rfl
@[simp] theorem State.snapshot_keyStatePrev (s : State) : (s.snapshot).keyStatePrev = s.keyState := rfl
@[simp] theorem State.snapshot_isWaitingForKey (s : State) : (s.snapshot).isWaitingForKey = s.isWaitingForKey := rfl
@[simp] theorem State.snapshot_display (s : State) : (s.snapshot).display = s.display := rfl
@[simp] theorem State.snapshot_fault (s : State) : (s.snapshot).fault = s.fault := rfl
@[simp] theorem State.snapshot_draws (s : State) : (s.snapshot).draws = s.draws := rfl
@[simp] theorem State.snapshot_loadable (s : State) : (s.snapshot).loadable = false := rfl

end Sys2Proof.Machine
end

