-- ==== Sys2Proof/Laws/Registers.lean ====
section
/-!
SUPPORT. Registers, the call stack, the register list of LDM, flags and the lowest key.
-/

namespace Sys2Proof.Machine

/-- A register read after a register write. -/
theorem State.reg_setV (s : State) (r r' : Reg) (b : Byte) :
    (s.setV r b).reg r' = if r' = r then b else s.reg r' := by
  simp only [State.reg, State.setV_v, Vector.getElem_set]
  by_cases h : r' = r
  · simp [h]
  · simp [h, Fin.val_inj, Ne.symm h]

@[simp] theorem State.reg_setV_self (s : State) (r : Reg) (b : Byte) : (s.setV r b).reg r = b := by
  rw [State.reg_setV, if_pos rfl]

theorem State.reg_setV_ne (s : State) {r r' : Reg} (b : Byte) (h : r' ≠ r) : (s.setV r b).reg r' = s.reg r' := by
  rw [State.reg_setV, if_neg h]

/-- Registers depend on `v` alone. -/
theorem State.reg_congr {s t : State} (h : t.v = s.v) (r : Reg) : t.reg r = s.reg r := by
  simp [State.reg, h]

theorem State.push_sp_val (s : State) (a : Word) (h : s.sp.val < 16) : (s.push a).sp.val = s.sp.val + 1 := by
  rw [State.push_sp, Fin.val_add]
  have : ((1 : Fin 17)).val = 1 := rfl
  omega

theorem State.pop_sp_val (s : State) (h : 0 < s.sp.val) : s.pop.sp.val = s.sp.val - 1 := by
  rw [State.pop_sp, Fin.val_sub]
  have : ((1 : Fin 17)).val = 1 := rfl
  omega

/-- Slots after a push: the one at `sp` is written, the others are kept. -/
theorem State.push_stack_get (s : State) (a : Word) (k : Nat) (hk : k < 16) :
    (s.push a).stack[k] = if k = s.sp.val then a else s.stack[k] := by
  simp only [State.push_stack, Vector.getElem_setIfInBounds, eq_comm]

/-- `putRegs` writes exactly the registers from `i` on that have a byte. -/
theorem putRegs_get (bs : List Byte) (i : Nat) (v : Regs) (k : Nat) (hk : k < 16) :
    (putRegs bs i v)[k] = if h : i ≤ k ∧ k < i + bs.length then bs[k - i]'(by omega) else v[k] := by
  induction bs generalizing i v with
  | nil =>
    have : ¬ (i ≤ k ∧ k < i + ([] : List Byte).length) := by simp
    rw [dif_neg this]; rfl
  | cons b bs ih =>
    rw [putRegs, ih]
    by_cases h0 : i = k
    · subst h0
      simp
    · by_cases h1 : i + 1 ≤ k ∧ k < i + 1 + bs.length
      · have h2 : i ≤ k ∧ k < i + (b :: bs).length := by simp only [List.length_cons]; omega
        rw [dif_pos h1, dif_pos h2]
        have : k - i = (k - (i + 1)) + 1 := by omega
        simp [this]
      · have h2 : ¬ (i ≤ k ∧ k < i + (b :: bs).length) := by simp only [List.length_cons]; omega
        rw [dif_neg h1, dif_neg h2, Vector.getElem_setIfInBounds, if_neg h0]

@[simp] theorem State.length_regsUpTo (s : State) (x : Reg) : (s.regsUpTo x).length = x.val + 1 := by
  simp [State.regsUpTo]

theorem State.getElem_regsUpTo (s : State) (x : Reg) (k : Nat) (hk : k < (s.regsUpTo x).length) :
    (s.regsUpTo x)[k] = s.reg ⟨k, by simp at hk; omega⟩ := by
  simp [State.regsUpTo, State.reg]

theorem flagByte_eq (b : Bool) : flagByte b = if b = true then 1 else 0 := by cases b <;> rfl

/-- `lowestKey` answers the least key whose bit is set. -/
theorem lowestKey_eq_some {e : Word} {k : Fin 16} :
    lowestKey e = some k ↔ e.getLsbD k.val = true ∧ ∀ j : Fin 16, j < k → e.getLsbD j.val = false := by
  unfold lowestKey
  rw [List.find?_eq_some_iff_getElem]
  constructor
  · rintro ⟨h, i, hi, hik, hmin⟩
    have hki : k.val = i := by rw [← hik]; simp
    refine ⟨h, fun j hj => ?_⟩
    have hj' : j.val < i := by omega
    have := hmin j.val hj'
    simpa using this
  · rintro ⟨h, hmin⟩
    refine ⟨h, k.val, by simp, by simp, fun j hj => ?_⟩
    have := hmin ⟨j, by omega⟩ (Fin.lt_def.mpr hj)
    simpa using this

/-- `lowestKey` answers no key exactly when no bit is set. -/
theorem lowestKey_eq_none {e : Word} : lowestKey e = none ↔ e = 0 := by
  unfold lowestKey
  rw [List.find?_eq_none]
  constructor
  · intro h
    apply BitVec.eq_of_getLsbD_eq
    intro i hi
    simpa using h ⟨i, hi⟩ (List.mem_finRange _)
  · rintro rfl
    simp

/-! ## Addresses -/

@[simp] theorem toNat_addressOf (nnn : BitVec 12) : (addressOf nnn).toNat = nnn.toNat := by
  have := nnn.isLt
  simp only [addressOf, BitVec.toNat_setWidth]
  omega

theorem ofNat_eq_addressOf (nnn : BitVec 12) : BitVec.ofNat 16 nnn.toNat = addressOf nnn := by
  apply BitVec.eq_of_toNat_eq
  have := nnn.isLt
  rw [toNat_addressOf, BitVec.toNat_ofNat]
  omega

theorem offsetTarget_eq (nnn : BitVec 12) (s : State) :
    offsetTarget nnn s = BitVec.ofNat 16 (nnn.toNat + (s.reg 0).toNat) := by
  apply BitVec.eq_of_toNat_eq
  simp [offsetTarget, widen, addressOf]

end Sys2Proof.Machine
end

