-- ==== Sys2Proof/Laws/Ops.lean ====
section
/-!
SUPPORT. For each shared operation, everything it can do: the validator and the checked accesses, raising, jumping,
skipping, storing and loading.
-/

namespace Sys2Proof.Machine

/-! ## The validator as a check -/

/-- A range passes when it is not empty, ends inside memory and, unless it is read, starts at 0x200 or above. -/
abbrev RangeOk (usage : Usage) (base n : Nat) : Prop := base + n ≤ 0x1000 ∧ (usage = .read ∨ 0x200 ≤ base)

theorem checkRange_zero (usage : Usage) (base : Word) : checkRange usage base 0 = .error .invalidRangeSize := rfl

theorem checkRange_eq (usage : Usage) (base size : Word) (h0 : size ≠ 0) :
    (RangeOk usage base.toNat size.toNat → checkRange usage base size = .ok ()) ∧
    (¬ RangeOk usage base.toNat size.toNat →
      checkRange usage base size = .error (.invalidMemoryRange usage base size)) := by
  have hs : 0 < size.toNat := by
    rcases Nat.eq_zero_or_pos size.toNat with h | h
    · exact absurd (BitVec.eq_of_toNat_eq (by simpa using h)) h0
    · exact h
  have hb := base.isLt
  have hz := size.isLt
  have hlast : (base + size - 1).toNat = (base.toNat + size.toNat - 1) % 65536 := by
    have h1 : ((1 : Word)).toNat = 1 := rfl
    rw [BitVec.toNat_sub, BitVec.toNat_add, h1]
    omega
  have key : isValidRange base size usage = .ok (decide (RangeOk usage base.toNat size.toNat)) := by
    unfold isValidRange
    rw [if_neg h0]
    simp only [BitVec.lt_def, hlast, show (0xFFF#16).toNat = 0xFFF from rfl, show (0x200#16).toNat = 0x200 from rfl]
    split
    · symm
      simp only [Except.ok.injEq, decide_eq_false_iff_not, RangeOk]
      omega
    · split
      · symm
        simp only [Except.ok.injEq, decide_eq_false_iff_not, RangeOk]
        omega
      · split
        · rename_i hu
          symm
          simp only [Except.ok.injEq, decide_eq_false_iff_not, RangeOk]
          rintro ⟨-, rfl | h⟩
          · simp at hu
          · omega
        · rename_i hu
          symm
          simp only [Except.ok.injEq, decide_eq_true_eq, RangeOk]
          refine ⟨by omega, ?_⟩
          cases usage
          · exact .inl rfl
          · right; simp at hu; omega
          · right; simp at hu; omega
  unfold checkRange
  rw [key]
  constructor <;> intro h <;> simp [h]

/-- The check passes: what it says of the range. -/
theorem checkRange_ok {usage : Usage} {base : Word} {n : Nat} (hn : n < 65536)
    (h : checkRange usage base (BitVec.ofNat 16 n) = .ok ()) : 0 < n ∧ RangeOk usage base.toNat n := by
  have ht : (BitVec.ofNat 16 n).toNat = n := by simp; omega
  by_cases h0 : BitVec.ofNat 16 n = 0
  · rw [h0, checkRange_zero] at h; cases h
  · have hpos : n ≠ 0 := by rintro rfl; exact h0 rfl
    refine ⟨by omega, ?_⟩
    by_contra hc
    rw [(checkRange_eq usage base _ h0).2 (by rwa [ht])] at h
    cases h

theorem checkRange_pass {usage : Usage} {base : Word} {n : Nat} (hn : n < 65536) (h0 : 0 < n)
    (h : RangeOk usage base.toNat n) : checkRange usage base (BitVec.ofNat 16 n) = .ok () := by
  have ht : (BitVec.ofNat 16 n).toNat = n := by simp; omega
  refine (checkRange_eq usage base _ ?_).1 (by rwa [ht])
  intro hc
  have := congrArg BitVec.toNat hc
  rw [ht] at this
  simp at this
  omega

theorem checkRange_fail {usage : Usage} {base : Word} {n : Nat} (hn : n < 65536) (h0 : 0 < n)
    (h : ¬ RangeOk usage base.toNat n) :
    checkRange usage base (BitVec.ofNat 16 n) = .error (.invalidMemoryRange usage base (BitVec.ofNat 16 n)) := by
  have ht : (BitVec.ofNat 16 n).toNat = n := by simp; omega
  refine (checkRange_eq usage base _ ?_).2 (by rwa [ht])
  intro hc
  have := congrArg BitVec.toNat hc
  rw [ht] at this
  simp at this
  omega

/-- A checked read that passes gives the bytes of the range. -/
theorem memRead_ok {addr : Word} {n : Nat} {s : State} {bytes : List Byte} (hn : n < 65536)
    (h : memRead addr n s = .ok bytes) :
    0 < n ∧ addr.toNat + n ≤ 0x1000 ∧ bytes = s.memory.readBytes addr.toNat n := by
  unfold memRead at h
  split at h
  · rename_i hc
    cases h
    exact ⟨(checkRange_ok hn hc).1, (checkRange_ok hn hc).2.1, rfl⟩
  · cases h

theorem memRead_pass {addr : Word} {n : Nat} {s : State} (h0 : 0 < n) (h : addr.toNat + n ≤ 0x1000) :
    memRead addr n s = .ok (s.memory.readBytes addr.toNat n) := by
  rw [memRead, checkRange_pass (by omega) h0 ⟨h, .inl rfl⟩]

theorem memRead_fail {addr : Word} {n : Nat} {s : State} (hn : n < 65536) (h0 : 0 < n)
    (h : 0x1000 < addr.toNat + n) :
    memRead addr n s = .error (.invalidMemoryRange .read addr (BitVec.ofNat 16 n)) := by
  rw [memRead, checkRange_fail hn h0 (by rintro ⟨h1, -⟩; omega)]

theorem memRead_zero (addr : Word) (s : State) : memRead addr 0 s = .error .invalidRangeSize := rfl

/-- A checked store that passes gives the memory with the bytes stored, all of them at 0x200 or above. -/
theorem memWrite_ok {addr : Word} {bytes : List Byte} {s : State} {m : Memory} (hn : bytes.length < 65536)
    (h : memWrite addr bytes s = .ok m) :
    0 < bytes.length ∧ 0x200 ≤ addr.toNat ∧ addr.toNat + bytes.length ≤ 0x1000 ∧
      m = s.memory.writeBytes addr.toNat bytes := by
  unfold memWrite at h
  split at h
  · rename_i hc
    cases h
    obtain ⟨h0, h1, h2⟩ := checkRange_ok hn hc
    exact ⟨h0, by simpa using h2, h1, rfl⟩
  · cases h

theorem memWrite_pass {addr : Word} {bytes : List Byte} {s : State} (h0 : 0 < bytes.length)
    (h1 : 0x200 ≤ addr.toNat) (h2 : addr.toNat + bytes.length ≤ 0x1000) :
    memWrite addr bytes s = .ok (s.memory.writeBytes addr.toNat bytes) := by
  rw [memWrite, checkRange_pass (by omega) h0 ⟨h2, .inr h1⟩]

theorem memWrite_fail {addr : Word} {bytes : List Byte} {s : State} (hn : bytes.length < 65536)
    (h0 : 0 < bytes.length) (h : ¬ (0x200 ≤ addr.toNat ∧ addr.toNat + bytes.length ≤ 0x1000)) :
    memWrite addr bytes s = .error (.invalidMemoryRange .write addr (BitVec.ofNat 16 bytes.length)) := by
  rw [memWrite, checkRange_fail hn h0]
  rintro ⟨h1, h2⟩
  exact h ⟨by simpa using h2, h1⟩

/-- A target passes `CheckJump` exactly when it is even and in 0x200 to 0xFFE. -/
theorem checkJump_ok {t : Word} :
    checkJump t = .ok () ↔ t.toNat % 2 = 0 ∧ 0x200 ≤ t.toNat ∧ t.toNat ≤ 0xFFE := by
  have h2 : (2 : Word) = BitVec.ofNat 16 2 := rfl
  unfold checkJump
  split
  · constructor
    · intro h; cases h
    · intro h; omega
  · rw [h2]
    constructor
    · intro h
      have := (checkRange_ok (by omega) h).2
      simp only [RangeOk, reduceCtorEq, false_or] at this
      omega
    · intro h
      exact checkRange_pass (by omega) (by omega) ⟨by omega, .inr h.2.1⟩

theorem checkJump_odd {t : Word} (h : t.toNat % 2 = 1) : checkJump t = .error (.misalignedJumpTarget t) := by
  rw [checkJump, if_pos h]

theorem checkJump_range {t : Word} (h : t.toNat % 2 = 0) (hr : t.toNat < 0x200 ∨ 0xFFE < t.toNat) :
    checkJump t = .error (.invalidMemoryRange .execute t 2) := by
  rw [checkJump, if_neg (by omega)]
  refine checkRange_fail (n := 2) (by omega) (by omega) ?_
  simp only [RangeOk, reduceCtorEq, false_or]
  omega

/-! ## What the shared operations answer -/

/-- `orRaise` goes on with the value of a check that passed, or answers the halted state. -/
theorem orRaise_next {α : Type} {r : Except Fault α} {s t : State} {k : α → Answer}
    (h : orRaise r s k = .next t) : (∃ a, r = .ok a ∧ k a = .next t) ∨ (∃ c, r = .error c ∧ t = s.halt c) := by
  unfold orRaise at h
  split at h
  · exact .inl ⟨_, rfl, h⟩
  · simp only [raise, Host.Outcome.next.injEq] at h
    exact .inr ⟨_, rfl, h.symm⟩

@[simp] theorem orRaise_ok {α : Type} (a : α) (s : State) (k : α → Answer) : orRaise (.ok a) s k = k a := rfl

@[simp] theorem orRaise_error {α : Type} (c : Fault) (s : State) (k : α → Answer) :
    orRaise (.error c) s k = .next (s.halt c) := rfl

/-- A jump sets `pc` to a checked target or raises. -/
theorem jumpTo_next {t : Word} {s s' : State} (h : jumpTo t s = .next s') :
    (checkJump t = .ok () ∧ s' = s.setPc t) ∨ (∃ c, s' = s.halt c) := by
  rcases orRaise_next h with ⟨_, h1, h2⟩ | ⟨c, -, h2⟩
  · simp only [Host.Outcome.next.injEq] at h2
    exact .inl ⟨h1, h2.symm⟩
  · exact .inr ⟨c, h2⟩

/-- A skip adds 4 to `pc` or does nothing. -/
theorem skipIf_next {b : Bool} {s t : State} (h : skipIf b s = .next t) :
    (b = true ∧ t = s.setPc (s.pc + 4)) ∨ (b = false ∧ t = s) := by
  simp only [skipIf, Host.Outcome.next.injEq] at h
  cases b
  · exact .inr ⟨rfl, by simpa using h.symm⟩
  · exact .inl ⟨rfl, by simpa using h.symm⟩

/-- A store at `index` writes its bytes, all of them at 0x200 or above, or raises. -/
theorem storeAtIndex_next {bytes : List Byte} {s t : State} (hn : bytes.length < 65536)
    (h : storeAtIndex bytes s = .next t) :
    (0x200 ≤ s.index.toNat ∧ s.index.toNat + bytes.length ≤ 0x1000 ∧
      t = s.setMemory (s.memory.writeBytes s.index.toNat bytes)) ∨ (∃ c, t = s.halt c) := by
  rcases orRaise_next h with ⟨m, h1, h2⟩ | ⟨c, -, h2⟩
  · obtain ⟨-, h3, h4, rfl⟩ := memWrite_ok hn h1
    simp only [Host.Outcome.next.injEq] at h2
    exact .inl ⟨h3, h4, h2.symm⟩
  · exact .inr ⟨c, h2⟩

end Sys2Proof.Machine
end

