-- ==== Sys2Proof/Laws/PerInstr.lean ====
section
/-!
SUPPORT. The per-instruction family MaskMatch: the word of an instruction has the fixed bits of its row in spec
30_encoding.md R49.
-/

namespace Sys2Proof.Laws.MaskMatch

/-- The word of `i`, masked, is the match value of its row (R49). -/
def Statement (i : Instr) : Prop := encodeWord i &&& i.maskMatch.1 = i.maskMatch.2

theorem and_ones4 (a : BitVec 4) : a &&& 15#4 = a := BitVec.and_allOnes
theorem and_ones8 (a : Byte) : a &&& 255#8 = a := BitVec.and_allOnes

theorem nnn_top (op : BitVec 4) (nnn : BitVec 12) : packNNN op nnn &&& 0xF000#16 = packNNN op 0 := by
  unfold packNNN
  rw [show 0xF000#16 = 0xF#4 ++ 0x000#12 from rfl, BitVec.and_append]
  simp [and_ones4]

theorem xkk_top (op : BitVec 4) (x : Reg) (kk : Byte) : packXKK op x kk &&& 0xF000#16 = packXKK op 0 0 := by
  unfold packXKK
  rw [show 0xF000#16 = (0xF#4 ++ 0x0#4 : BitVec 8) ++ 0x00#8 from rfl, BitVec.and_append, BitVec.and_append]
  simp [regBits, and_ones4]

theorem xkk_byte (op : BitVec 4) (x : Reg) (kk : Byte) : packXKK op x kk &&& 0xF0FF#16 = packXKK op 0 kk := by
  unfold packXKK
  rw [show 0xF0FF#16 = (0xF#4 ++ 0x0#4 : BitVec 8) ++ 0xFF#8 from rfl, BitVec.and_append, BitVec.and_append]
  simp [regBits, and_ones4, and_ones8]

theorem xyn_top (op : BitVec 4) (x y : Reg) (n : BitVec 4) : packXYN op x y n &&& 0xF000#16 = packXYN op 0 0 0 := by
  unfold packXYN
  rw [show 0xF000#16 = (0xF#4 ++ 0x0#4 : BitVec 8) ++ (0x0#4 ++ 0x0#4 : BitVec 8) from rfl, BitVec.and_append,
    BitVec.and_append, BitVec.and_append]
  simp [regBits, and_ones4]

theorem xyn_nibble (op : BitVec 4) (x y : Reg) (n : BitVec 4) :
    packXYN op x y n &&& 0xF00F#16 = packXYN op 0 0 n := by
  unfold packXYN
  rw [show 0xF00F#16 = (0xF#4 ++ 0x0#4 : BitVec 8) ++ (0x0#4 ++ 0xF#4 : BitVec 8) from rfl, BitVec.and_append,
    BitVec.and_append, BitVec.and_append]
  simp [regBits, and_ones4]

theorem cls : Statement (.cls) := rfl
theorem ret : Statement (.ret) := rfl
theorem sys (nnn : BitVec 12) : Statement (.sys nnn) := nnn_top _ _
theorem jp (nnn : BitVec 12) : Statement (.jp nnn) := nnn_top _ _
theorem call (nnn : BitVec 12) : Statement (.call nnn) := nnn_top _ _
theorem se (x : Reg) (kk : Byte) : Statement (.se x kk) := xkk_top _ _ _
theorem sne (x : Reg) (kk : Byte) : Statement (.sne x kk) := xkk_top _ _ _
theorem se2 (x y : Reg) : Statement (.se2 x y) := xyn_nibble _ _ _ _
theorem sne2 (x y : Reg) : Statement (.sne2 x y) := xyn_nibble _ _ _ _
theorem ld (x : Reg) (kk : Byte) : Statement (.ld x kk) := xkk_top _ _ _
theorem ld2 (x y : Reg) : Statement (.ld2 x y) := xyn_nibble _ _ _ _
theorem add (x : Reg) (kk : Byte) : Statement (.add x kk) := xkk_top _ _ _
theorem or (x y : Reg) : Statement (.or x y) := xyn_nibble _ _ _ _
theorem and (x y : Reg) : Statement (.and x y) := xyn_nibble _ _ _ _
theorem xor (x y : Reg) : Statement (.xor x y) := xyn_nibble _ _ _ _
theorem add2 (x y : Reg) : Statement (.add2 x y) := xyn_nibble _ _ _ _
theorem sub (x y : Reg) : Statement (.sub x y) := xyn_nibble _ _ _ _
theorem subn (x y : Reg) : Statement (.subn x y) := xyn_nibble _ _ _ _
theorem shr (x y : Reg) : Statement (.shr x y) := xyn_nibble _ _ _ _
theorem shl (x y : Reg) : Statement (.shl x y) := xyn_nibble _ _ _ _
theorem ldi (nnn : BitVec 12) : Statement (.ldi nnn) := nnn_top _ _
theorem jp2 (nnn : BitVec 12) : Statement (.jp2 nnn) := nnn_top _ _
theorem rnd (x : Reg) (kk : Byte) : Statement (.rnd x kk) := xkk_top _ _ _
theorem drw (x y : Reg) (n : BitVec 4) : Statement (.drw x y n) := xyn_top _ _ _ _
theorem skp (x : Reg) : Statement (.skp x) := xkk_byte _ _ _
theorem sknp (x : Reg) : Statement (.sknp x) := xkk_byte _ _ _
theorem ldt (x : Reg) : Statement (.ldt x) := xkk_byte _ _ _
theorem ldk (x : Reg) : Statement (.ldk x) := xkk_byte _ _ _
theorem lddt (x : Reg) : Statement (.lddt x) := xkk_byte _ _ _
theorem ldst (x : Reg) : Statement (.ldst x) := xkk_byte _ _ _
theorem addi (x : Reg) : Statement (.addi x) := xkk_byte _ _ _
theorem ldf (x : Reg) : Statement (.ldf x) := xkk_byte _ _ _
theorem ldb (x : Reg) : Statement (.ldb x) := xkk_byte _ _ _
theorem ldai (x : Reg) : Statement (.ldai x) := xkk_byte _ _ _
theorem ldm (x : Reg) : Statement (.ldm x) := xkk_byte _ _ _

end Sys2Proof.Laws.MaskMatch
end

