-- ==== Sys2Proof/Laws/Slot.lean ====
section
/-!
SUPPORT. The slot: when it fetches an instruction, and everything one step can do.
-/

namespace Sys2Proof.Machine

/-- The fetched word is `codeWord`. -/
theorem fetchWord_ok {a : Word} {s : State} (h1 : 0x200 ≤ a.toNat) (h2 : a.toNat ≤ 0xFFE) :
    fetchWord a s = .ok (codeWord s a.toNat) := by
  have : checkRange .execute a (BitVec.ofNat 16 2) = .ok () :=
    checkRange_pass (by omega) (by omega) ⟨by omega, .inr h1⟩
  rw [fetchWord, show (2 : Word) = BitVec.ofNat 16 2 from rfl, this]
  refine congrArg Except.ok ?_
  apply BitVec.eq_of_toNat_eq
  rw [toNat_wordOfBytes, codeWord, BitVec.toNat_ofNat]
  have := (s.memory.readByte a.toNat).isLt
  have := (s.memory.readByte (a.toNat + 1)).isLt
  omega

theorem fetchWord_fail {a : Word} {s : State} (h : a.toNat < 0x200 ∨ 0xFFE < a.toNat) :
    fetchWord a s = .error (.invalidMemoryRange .execute a 2) := by
  have : checkRange .execute a (BitVec.ofNat 16 2) = .error (.invalidMemoryRange .execute a (BitVec.ofNat 16 2)) :=
    checkRange_fail (by omega) (by omega) (by simp only [RangeOk, reduceCtorEq, false_or]; omega)
  rw [fetchWord, show (2 : Word) = BitVec.ofNat 16 2 from rfl, this]

/-- What fetch and decode give, and where. -/
theorem fetchInstr_ok {s : State} {i : Instr} (h : fetchInstr s = .ok i) :
    (0x200 ≤ s.pc.toNat ∧ s.pc.toNat ≤ 0xFFE) ∧ decodeWord (codeWord s s.pc.toNat) = .ok i := by
  unfold fetchInstr at h
  by_cases hr : 0x200 ≤ s.pc.toNat ∧ s.pc.toNat ≤ 0xFFE
  · refine ⟨hr, ?_⟩
    rw [fetchWord_ok hr.1 hr.2] at h
    simp only [decodeSlot] at h
    split at h
    · simp_all
    · cases h
  · rw [fetchWord_fail (by omega)] at h
    cases h

theorem fetchInstr_of_fetches {s : State} {i : Instr} (h : Fetches s i) : fetchInstr s = .ok i := by
  obtain ⟨-, ⟨-, h1, h2⟩, h3⟩ := h
  rw [fetchInstr, fetchWord_ok h1 h2]
  simp [decodeSlot, h3]

/-- A slot that fetches `i` is `i`'s meaning with the end of the slot around it. -/
theorem step_of_fetches {s : State} {i : Instr} (h : Fetches s i) : step s = finishSlot s.pc (exec i s) := by
  have hf := fetchInstr_of_fetches h
  obtain ⟨h0, ⟨h1, -⟩, -⟩ := h
  rw [step, runSlot, h0]
  simp only [hf, orRaise_ok]
  rw [if_neg (by omega)]

/-- Everything one step that answers a next state can do: raise in fetch or decode, or execute an instruction. -/
theorem step_next {s t : State} (h : step s = .next t) :
    (∃ c, s.fault = none ∧ s.pc.toNat % 2 = 0 ∧ fetchInstr s = .error c ∧ t = s.halt c) ∨
    (∃ i u, Fetches s i ∧ exec i s = .next u ∧ t = postExecute s.pc u) := by
  unfold step runSlot at h
  split at h
  · cases h
  · rename_i hnf
    split at h
    · cases h
    · rename_i hodd
      rcases orRaise_next h with ⟨i, hi, hk⟩ | ⟨c, hc, ht⟩
      · refine .inr ⟨i, ?_⟩
        obtain ⟨hr, hd⟩ := fetchInstr_ok hi
        unfold finishSlot at hk
        split at hk
        · rename_i u hu
          cases hk
          exact ⟨u, ⟨hnf, ⟨by omega, hr.1, hr.2⟩, hd⟩, hu, rfl⟩
        · cases hk
        · cases hk
      · exact .inl ⟨c, hnf, by omega, hc, ht⟩

/-- After an instruction that raised, the slot writes nothing more (R65). -/
theorem postExecute_halted {a : Word} {s : State} {c : Fault} (h : s.fault = some c) : postExecute a s = s := by
  simp [postExecute, State.halted, h]

theorem postExecute_running {a : Word} {s : State} (h : s.fault = none) :
    postExecute a s = (advance a s).snapshot := by
  simp [postExecute, State.halted, h]

/-- A state fetches at most one instruction. -/
theorem fetches_unique {s : State} {i j : Instr} (h : Fetches s i) (h' : Fetches s j) : i = j := by
  have := h.2.2.symm.trans h'.2.2
  injection this

theorem advance_pc (a : Word) (s : State) :
    (advance a s).pc = if s.pc = a ∧ s.isWaitingForKey = false then s.pc + 2 else s.pc := by
  unfold advance
  split <;> rfl

/-- A slot whose end is not halted has run an instruction that did not raise. -/
theorem postExecute_fault_none {a : Word} {s : State} (h : (postExecute a s).fault = none) :
    s.fault = none ∧ postExecute a s = (advance a s).snapshot := by
  cases hs : s.fault with
  | none => exact ⟨rfl, postExecute_running hs⟩
  | some c =>
    rw [postExecute_halted hs, hs] at h
    cases h

end Sys2Proof.Machine
end

