-- ==== Sys2Proof/Laws/Words.lean ====
section
/-!
SUPPORT. The words that the claims write by arithmetic are the words the encoder packs.
-/

namespace Sys2Proof.Machine

theorem wordNNN_eq (op : Nat) (nnn : BitVec 12) : wordNNN op nnn = packNNN (BitVec.ofNat 4 op) nnn := by
  apply BitVec.eq_of_toNat_eq
  rw [toNat_packNNN, wordNNN, BitVec.toNat_ofNat, BitVec.toNat_ofNat]
  have := nnn.isLt
  omega

theorem wordXKK_eq (op : Nat) (x : Reg) (kk : Nat) (hk : kk < 256) :
    wordXKK op x kk = packXKK (BitVec.ofNat 4 op) x (BitVec.ofNat 8 kk) := by
  apply BitVec.eq_of_toNat_eq
  rw [toNat_packXKK, wordXKK, BitVec.toNat_ofNat, BitVec.toNat_ofNat, BitVec.toNat_ofNat]
  have := x.isLt
  omega

theorem wordXYN_eq (op : Nat) (x y : Reg) (n : Nat) (hn : n < 16) :
    wordXYN op x y n = packXYN (BitVec.ofNat 4 op) x y (BitVec.ofNat 4 n) := by
  apply BitVec.eq_of_toNat_eq
  rw [toNat_packXYN, wordXYN, BitVec.toNat_ofNat, BitVec.toNat_ofNat, BitVec.toNat_ofNat]
  have := x.isLt
  have := y.isLt
  omega

end Sys2Proof.Machine
end

