-- ==== Sys2Proof/Tests/Slice0.lean ====
section
/-!
SUPPORT. Tests on the vectors of spec 95_test_vectors.md (their ids stand before each theorem), one slot each on a small
state, and for every statement with hypotheses a witness that meets them.
-/

namespace Sys2Proof.Tests

open Sys2Proof.Machine

/-! ## Helpers -/

/-- The reset state with the word `w` at `pc`. -/
def start (w : Nat) : State := State.reset.withFetchWord 16 w

/-- The same at another `pc`. -/
def startAt (pc : Word) (w : Nat) : State := (State.reset.setPc pc).withFetchWord 16 w

/-- Set some registers. -/
def withRegs (rs : List (Reg × Byte)) (s : State) : State := rs.foldl (fun s p => s.setV p.1 p.2) s

/-- Place bytes in memory. -/
def withMem (a : Nat) (bs : List Byte) (s : State) : State := s.setMemory (s.memory.writeBytes a bs)

/-- Set the two key sets. -/
def withKeys (now prev : Word) (s : State) : State := { s with keyState := now, keyStatePrev := prev }

/-- Put `k` copies of `a` on an empty call stack. -/
def withStack (k : Nat) (a : Word) (s : State) : State := Nat.rec s (fun _ t => t.push a) k

/-- The state of an answer that is one. -/
def nextOf : Answer → Option State
  | .next t => some t
  | .fault _ => none
  | .refused _ => none

/-- The state after one slot. -/
def slot (s : State) : Option State := nextOf (step s)

/-- The fault, `pc` and `sp` after one slot. -/
def faultAfter (s : State) : Option (Option Fault × Word × Fin 17) := (slot s).map fun t => (t.fault, t.pc, t.sp)

/-- Two registers and `pc` after one slot. -/
def regsAfter (a b : Reg) (s : State) : Option (Byte × Byte × Word) := (slot s).map fun t => (t.reg a, t.reg b, t.pc)

/-- `pc` after one slot. -/
def pcAfter (s : State) : Option Word := (slot s).map State.pc

/-- The lit pixels among some, and VF, after one slot. -/
def litAfter (ps : List (Fin 64 × Fin 32)) (s : State) : Option (List Bool × Byte) :=
  (slot s).map fun t => (ps.map fun p => t.display.readPixel p.1 p.2, t.reg VF)

/-! ## WellFormed (R50) -/

theorem test_wellFormed_accepts : (Instr.sys 0xFFF).WellFormed ∧ (Instr.cls).WellFormed ∧ (Instr.sys 0).WellFormed := by decide
theorem test_wellFormed_refuses_sys_0E0 : ¬ (Instr.sys 0x0E0).WellFormed := by decide
theorem test_wellFormed_refuses_sys_0EE : ¬ (Instr.sys 0x0EE).WellFormed := by decide

/-! ## Decoding, a word of every constructor written out bit by bit (95 section 2.7) -/

theorem test_decode_control :
    decodeWord 0b0000_0000_1110_1110#16 = .ok .ret ∧ decodeWord 0b0000_1111_1111_1111#16 = .ok (.sys 0xFFF) ∧
    decodeWord 0b0001_1010_1011_1100#16 = .ok (.jp 0xABC) ∧ decodeWord 0b0010_1010_1011_1100#16 = .ok (.call 0xABC) ∧
    decodeWord 0b1011_0001_0010_0011#16 = .ok (.jp2 0x123) := by decide

theorem test_decode_skips :
    decodeWord 0b0011_1010_1111_1111#16 = .ok (.se 10 0xFF) ∧ decodeWord 0b0100_0100_0101_0000#16 = .ok (.sne 4 0x50) ∧
    decodeWord 0b0101_0001_0010_0000#16 = .ok (.se2 1 2) ∧ decodeWord 0b1001_1010_1011_0000#16 = .ok (.sne2 10 11) := by
  decide

theorem test_decode_alu :
    decodeWord 0b0110_1111_0000_0000#16 = .ok (.ld 15 0) ∧ decodeWord 0b0111_0001_0010_0011#16 = .ok (.add 1 0x23) ∧
    decodeWord 0b1000_1010_1011_0000#16 = .ok (.ld2 10 11) ∧ decodeWord 0b1000_1010_1011_0001#16 = .ok (.or 10 11) ∧
    decodeWord 0b1000_1010_1011_0010#16 = .ok (.and 10 11) ∧ decodeWord 0b1000_1010_1011_0011#16 = .ok (.xor 10 11) ∧
    decodeWord 0b1000_1010_1011_0100#16 = .ok (.add2 10 11) ∧ decodeWord 0b1000_1010_1011_0101#16 = .ok (.sub 10 11) ∧
    decodeWord 0b1000_1010_1011_0110#16 = .ok (.shr 10 11) ∧ decodeWord 0b1000_1010_1011_0111#16 = .ok (.subn 10 11) ∧
    decodeWord 0b1000_1010_1011_1110#16 = .ok (.shl 10 11) ∧ decodeWord 0b1100_0001_1111_0000#16 = .ok (.rnd 1 0xF0) := by
  decide

theorem test_decode_index_memory :
    decodeWord 0b1010_0001_0010_0011#16 = .ok (.ldi 0x123) ∧ decodeWord 0b1111_0001_0001_1110#16 = .ok (.addi 1) ∧
    decodeWord 0b1111_0001_0010_1001#16 = .ok (.ldf 1) ∧ decodeWord 0b1111_0001_0011_0011#16 = .ok (.ldb 1) ∧
    decodeWord 0b1111_0001_0101_0101#16 = .ok (.ldai 1) ∧ decodeWord 0b1111_0001_0110_0101#16 = .ok (.ldm 1) := by decide

theorem test_decode_display :
    decodeWord 0b0000_0000_1110_0000#16 = .ok .cls ∧ decodeWord 0b1101_0001_0010_1111#16 = .ok (.drw 1 2 15) ∧
    decodeWord 0b1101_0001_0010_0000#16 = .ok (.drw 1 2 0) := by decide

theorem test_decode_keys_timers :
    decodeWord 0b1110_0001_1001_1110#16 = .ok (.skp 1) ∧ decodeWord 0b1110_0001_1010_0001#16 = .ok (.sknp 1) ∧
    decodeWord 0b1111_0001_0000_0111#16 = .ok (.ldt 1) ∧ decodeWord 0b1111_0001_0000_1010#16 = .ok (.ldk 1) ∧
    decodeWord 0b1111_0001_0001_0101#16 = .ok (.lddt 1) ∧ decodeWord 0b1111_0001_0001_1000#16 = .ok (.ldst 1) := by decide

theorem test_decode_illegal :
    [0x5121, 0x512F, 0x8AB8, 0x8ABD, 0x8ABF, 0x9AB1, 0xE19F, 0xE1A0, 0xE100, 0xE1FF, 0xF100, 0xF101, 0xF108, 0xF10B,
      0xF116, 0xF11F, 0xF130, 0xF154, 0xF166, 0xF175, 0xF185, 0xF1FF, 0xFFFF].all
      (fun w => decide (decodeWord (BitVec.ofNat 16 w) = .error (.unknownOpcode (BitVec.ofNat 16 w)))) = true := by decide

/-- R36: the high byte is at the lower address; R45: one byte is no instruction. -/
theorem test_decode_bytes : decodeBytes [0x6A, 0x3C, 0xFF] = .ok (.ld 10 0x3C, [0xFF]) ∧
    decodeBytes [0x6A] = .error .truncated ∧ encode (.ld 10 0x3C) = [0x6A, 0x3C] ∧
    decodeTableWord 16 0x6A3C = some (.ld 10 0x3C) ∧ decodeTableWord 16 0xFFFF = none := by decide

/-- R54: the assembler text. -/
theorem test_asm : (Instr.drw 1 10 5).asm = "DRW V1, VA, 5" ∧ (Instr.shr 2 0).asm = "SHR V2" ∧ Instr.ret.asm = "RET" := by
  decide

/-! ## Reset and fetch (R27, FE1 to FE4) -/

/-- R27, R171: `pc`, and the glyph `0` at 0x000. -/
theorem test_reset : State.reset.pc = 0x200 ∧ State.reset.memory.readBytes 0 6 = [0xF0, 0x90, 0x90, 0x90, 0xF0, 0x20] ∧
    State.reset.halted = false := by decide
/-- FE1. -/
theorem test_fetch_byte_order : regsAfter 10 0 (withMem 0x200 [0x6A, 0x3C] State.reset) = some (0x3C, 0, 0x202) := by decide
/-- FE2, FE3. -/
theorem test_fetch_last_word : pcAfter (State.reset.setPc 0xFFE) = some 0x1000 ∧
    faultAfter (State.reset.setPc 0x1000) = some (some (.invalidMemoryRange .execute 0x1000 2), 0x1000, 0) := by decide
/-- FE4. -/
theorem test_fetch_reserved : faultAfter (State.reset.setPc 0x1FE) =
    some (some (.invalidMemoryRange .execute 0x1FE 2), 0x1FE, 0) := by decide
/-- TM6: an illegal word. -/
theorem test_unknown_opcode : faultAfter (start 0xFFFF) = some (some (.unknownOpcode 0xFFFF), 0x200, 0) := by decide

/-! ## Control transfer (CF) -/

/-- CF1. -/
theorem test_sys : pcAfter (start 0x0123) = some 0x202 := by decide
/-- CF3, CF4, CF5. -/
theorem test_jp : pcAfter (start 0x1208) = some 0x208 ∧ pcAfter (start 0x1200) = some 0x202 ∧
    pcAfter (start 0x1FFE) = some 0xFFE := by decide
/-- CF6, CF7, CF8. -/
theorem test_jp_faults :
    faultAfter (start 0x1FFF) = some (some (.misalignedJumpTarget 0xFFF), 0x200, 0) ∧
    faultAfter (start 0x11FE) = some (some (.invalidMemoryRange .execute 0x1FE 2), 0x200, 0) ∧
    faultAfter (start 0x11FF) = some (some (.misalignedJumpTarget 0x1FF), 0x200, 0) := by decide
/-- CF10, CF11, CF16. -/
theorem test_call :
    (slot (start 0x2300)).map (fun t => (t.pc, t.sp, t.stack[0])) = some (0x300, 1, 0x200) ∧
    (slot (withStack 15 0 (start 0x2300))).map (fun t => (t.pc, t.sp, t.stack[15])) = some (0x300, 16, 0x200) ∧
    (slot (start 0x2200)).map (fun t => (t.pc, t.sp, t.stack[0])) = some (0x202, 1, 0x200) := by decide
/-- CF12, CF13, CF14, CF15. -/
theorem test_call_faults :
    faultAfter (withStack 16 0 (start 0x2300)) = some (some .stackOverflow, 0x200, 16) ∧
    faultAfter (withStack 16 0 (start 0x2301)) = some (some .stackOverflow, 0x200, 16) ∧
    faultAfter (start 0x2301) = some (some (.misalignedJumpTarget 0x301), 0x200, 0) ∧
    faultAfter (start 0x21FE) = some (some (.invalidMemoryRange .execute 0x1FE 2), 0x200, 0) := by decide
/-- CF18, CF20, CF21. -/
theorem test_ret :
    faultAfter (withStack 1 0x200 (startAt 0x300 0x00EE)) = some (none, 0x202, 0) ∧
    faultAfter (withStack 1 0x200 (startAt 0x202 0x00EE)) = some (none, 0x204, 0) ∧
    faultAfter (withStack 16 0x2F0 (startAt 0x300 0x00EE)) = some (none, 0x2F2, 15) := by decide
/-- CF17, CF19. -/
theorem test_ret_faults :
    faultAfter (start 0x00EE) = some (some .stackUnderflow, 0x200, 0) ∧
    faultAfter (withStack 1 0xFFE (startAt 0x300 0x00EE)) =
      some (some (.invalidMemoryRange .execute 0x1000 2), 0x300, 1) := by decide
/-- CF22, CF25, CF26. -/
theorem test_jp2 : pcAfter (withRegs [(0, 4)] (start 0xB300)) = some 0x304 ∧
    pcAfter (withRegs [(0, 1)] (start 0xB1FF)) = some 0x202 ∧
    pcAfter (withRegs [(0, 0xFF)] (start 0xB101)) = some 0x202 := by decide
/-- CF23, CF24. -/
theorem test_jp2_faults :
    faultAfter (withRegs [(0, 2)] (start 0xBFFE)) = some (some (.invalidMemoryRange .execute 0x1000 2), 0x200, 0) ∧
    faultAfter (withRegs [(0, 1)] (start 0xB300)) = some (some (.misalignedJumpTarget 0x301), 0x200, 0) := by decide
/-- CF28, CF29, CF39. -/
theorem test_se : pcAfter (withRegs [(3, 0x2A)] (start 0x332A)) = some 0x204 ∧
    pcAfter (withRegs [(3, 0x2B)] (start 0x332A)) = some 0x202 ∧
    faultAfter (startAt 0xFFE 0x3000) = some (none, 0x1002, 0) := by decide
/-- CF30, CF31. -/
theorem test_sne : pcAfter (withRegs [(3, 0x2A)] (start 0x432A)) = some 0x202 ∧ pcAfter (start 0x432A) = some 0x204 := by
  decide
/-- CF32, CF33. -/
theorem test_se2 : pcAfter (withRegs [(1, 7), (2, 7)] (start 0x5120)) = some 0x204 ∧
    pcAfter (withRegs [(1, 7), (2, 8)] (start 0x5120)) = some 0x202 := by decide
/-- CF35, CF36. -/
theorem test_sne2 : pcAfter (withRegs [(1, 7), (2, 8)] (start 0x9120)) = some 0x204 ∧
    pcAfter (withRegs [(1, 7), (2, 7)] (start 0x9120)) = some 0x202 := by decide

/-! ## Arithmetic and logic (AL) -/

/-- AL1. -/
theorem test_ld : regsAfter 10 VF (start 0x6A3C) = some (0x3C, 0, 0x202) := by decide
/-- AL3. -/
theorem test_ld2 : regsAfter 1 2 (withRegs [(2, 0x55)] (start 0x8120)) = some (0x55, 0x55, 0x202) := by decide
/-- AL5. -/
theorem test_add : regsAfter 0 VF (withRegs [(0, 0xFF)] (start 0x7002)) = some (0x01, 0, 0x202) := by decide
/-- AL8. -/
theorem test_or : regsAfter 1 VF (withRegs [(1, 0xF0), (2, 0x0F), (VF, 0x5A)] (start 0x8121)) =
    some (0xFF, 0x5A, 0x202) := by decide
/-- AL9. -/
theorem test_and : regsAfter 1 VF (withRegs [(1, 0xF3), (2, 0x3C), (VF, 0x5A)] (start 0x8122)) =
    some (0x30, 0x5A, 0x202) := by decide
/-- AL10. -/
theorem test_xor : regsAfter 1 VF (withRegs [(1, 0xFF), (2, 0x0F), (VF, 0x5A)] (start 0x8123)) =
    some (0xF0, 0x5A, 0x202) := by decide
/-- S1, AL13, AL14. -/
theorem test_add2 :
    regsAfter 0 VF (withRegs [(0, 128), (1, 130)] (start 0x8014)) = some (2, 1, 0x202) ∧
    regsAfter 0 VF (withRegs [(0, 8), (1, 8)] (start 0x8014)) = some (16, 0, 0x202) ∧
    regsAfter 0 VF (withRegs [(0, 0xFE), (1, 1), (VF, 1)] (start 0x8014)) = some (0xFF, 0, 0x202) ∧
    regsAfter 0 VF (withRegs [(0, 0x37)] (start 0x8014)) = some (0x37, 1, 0x202) := by decide
/-- AL21, AL22, AL23. -/
theorem test_add2_vf :
    regsAfter VF 1 (withRegs [(VF, 0x10), (1, 0x20)] (start 0x8F14)) = some (0, 0x20, 0x202) ∧
    regsAfter VF 1 (withRegs [(VF, 0xF0), (1, 0x20)] (start 0x8F14)) = some (1, 0x20, 0x202) ∧
    regsAfter 0 VF (withRegs [(0, 0x10), (VF, 1)] (start 0x80F4)) = some (0x11, 0, 0x202) := by decide
/-- AL25, AL26, AL27. -/
theorem test_sub :
    regsAfter 0 VF (withRegs [(0, 5), (1, 7)] (start 0x8015)) = some (0xFE, 0, 0x202) ∧
    regsAfter 0 VF (withRegs [(0, 7), (1, 5)] (start 0x8015)) = some (2, 1, 0x202) ∧
    regsAfter 0 VF (withRegs [(0, 9), (1, 9), (VF, 1)] (start 0x8015)) = some (0, 0, 0x202) := by decide
/-- AL31, AL33. -/
theorem test_sub_vf :
    regsAfter VF 1 (withRegs [(VF, 9), (1, 3)] (start 0x8F15)) = some (1, 3, 0x202) ∧
    regsAfter 0 VF (withRegs [(0, 9), (VF, 1)] (start 0x80F5)) = some (8, 1, 0x202) := by decide
/-- AL34, AL35, AL36. -/
theorem test_subn :
    regsAfter 0 VF (withRegs [(0, 5), (1, 7)] (start 0x8017)) = some (2, 1, 0x202) ∧
    regsAfter 0 VF (withRegs [(0, 7), (1, 5)] (start 0x8017)) = some (0xFE, 0, 0x202) ∧
    regsAfter 0 VF (withRegs [(0, 9), (1, 9), (VF, 1)] (start 0x8017)) = some (0, 0, 0x202) := by decide
/-- S3, AL39, AL41. -/
theorem test_shr :
    regsAfter 0 VF (withRegs [(0, 8)] (start 0x8006)) = some (4, 0, 0x202) ∧
    regsAfter 0 VF (withRegs [(0, 0xFF)] (start 0x8006)) = some (0x7F, 1, 0x202) ∧
    regsAfter 0 VF (withRegs [(0, 6), (1, 0xFF)] (start 0x8016)) = some (3, 0, 0x202) := by decide
/-- AL42. -/
theorem test_shr_vf : regsAfter VF 0 (withRegs [(VF, 7)] (start 0x8F06)) = some (3, 0, 0x202) := by decide
/-- AL44, AL45, AL48. -/
theorem test_shl :
    regsAfter 0 VF (withRegs [(0, 0x81)] (start 0x800E)) = some (2, 1, 0x202) ∧
    regsAfter 0 VF (withRegs [(0, 0x40)] (start 0x800E)) = some (0x80, 0, 0x202) ∧
    regsAfter 0 VF (withRegs [(0, 3), (1, 0xFF)] (start 0x801E)) = some (6, 0, 0x202) := by decide
/-- AL49. -/
theorem test_shl_vf : regsAfter VF 0 (withRegs [(VF, 0x81)] (start 0x8FFE)) = some (2, 0, 0x202) := by decide
/-- R102: the draw is free, the mask and the count of draws are not. -/
theorem test_rnd : (slot (start 0xC20F)).map (fun t => (t.reg 2, t.draws, t.pc)) =
    some (Config.drawByte 0 &&& 0x0F, 1, 0x202) := rfl
/-- AL53. -/
theorem test_rnd_zero_mask : (slot (withRegs [(2, 0x11)] (start 0xC200))).map (fun t => t.reg 2) = some 0 := by
  show some (Config.drawByte 0 &&& 0#8) = some 0
  simp

/-! ## Index and memory (ME) -/

/-- ME2. -/
theorem test_ldi : (slot (start 0xAFFF)).map State.index = some 0x0FFF := by decide
/-- ME4, ME5. -/
theorem test_addi :
    (slot ((withRegs [(1, 1)] (start 0xF11E)).setIndex 0x0FFF)).map State.index = some 0x1000 ∧
    (slot ((withRegs [(1, 0xFE)] (start 0xF11E)).setIndex 0xFF01)).map State.index = some 0xFFFF := by decide
/-- ME6. -/
theorem test_addi_overflow : (slot ((withRegs [(1, 0xFF)] (start 0xF11E)).setIndex 0xFF01)).map
    (fun t => (t.fault, t.index, t.pc)) = some (some .indexOverflow, 0xFF01, 0x200) := by decide
/-- ME10, ME11. -/
theorem test_ldf : (slot (withRegs [(2, 10)] (start 0xF229))).map State.index = some 0x0032 ∧
    (slot (withRegs [(2, 15)] (start 0xF229))).map State.index = some 0x004B := by decide
/-- ME12. -/
theorem test_ldf_bad_digit : (slot ((withRegs [(2, 0x10)] (start 0xF229)).setIndex 0x333)).map
    (fun t => (t.fault, t.index)) = some (some (.invalidGlyphDigit 16), 0x333) := by decide
/-- ME14, ME20. -/
theorem test_ldb :
    (slot ((withRegs [(3, 156)] (start 0xF333)).setIndex 0x300)).map (fun t => (t.memory.readBytes 0x2FF 5, t.index)) =
      some ([0, 1, 5, 6, 0], 0x300) ∧
    (slot ((withRegs [(3, 255)] (start 0xF333)).setIndex 0xFFD)).map (fun t => t.memory.readBytes 0xFFD 3) =
      some [2, 5, 5] := by decide
/-- ME21, ME22, ME23. -/
theorem test_ldb_faults :
    faultAfter ((withRegs [(3, 7)] (start 0xF333)).setIndex 0xFFE) =
      some (some (.invalidMemoryRange .write 0xFFE 3), 0x200, 0) ∧
    faultAfter ((withRegs [(3, 7)] (start 0xF333)).setIndex 0x1FF) =
      some (some (.invalidMemoryRange .write 0x1FF 3), 0x200, 0) ∧
    faultAfter ((withRegs [(3, 7)] (start 0xF333)).setIndex 0xFFFF) =
      some (some (.invalidMemoryRange .write 0xFFFF 3), 0x200, 0) := by decide
/-- ME24, ME28. -/
theorem test_ldai :
    (slot ((withRegs [(0, 1), (1, 2), (2, 3), (3, 4)] (start 0xF255)).setIndex 0x400)).map
      (fun t => (t.memory.readBytes 0x400 4, t.index)) = some ([1, 2, 3, 0], 0x400) ∧
    (slot ((withRegs [(0, 9)] (start 0xF055)).setIndex 0xFFF)).map (fun t => t.memory.readByte 0xFFF) = some 9 := by decide
/-- ME26, ME27. -/
theorem test_ldai_faults :
    faultAfter ((start 0xFF55).setIndex 0xFF1) = some (some (.invalidMemoryRange .write 0xFF1 16), 0x200, 0) ∧
    faultAfter ((start 0xF055).setIndex 0x1FF) = some (some (.invalidMemoryRange .write 0x1FF 1), 0x200, 0) := by decide
/-- ME30, ME32. -/
theorem test_ldm :
    (slot ((withRegs [(3, 0x33)] (withMem 0x400 [9, 8, 7, 6] (start 0xF265))).setIndex 0x400)).map
      (fun t => ([t.reg 0, t.reg 1, t.reg 2, t.reg 3], t.index)) = some ([9, 8, 7, 0x33], 0x400) ∧
    (slot ((start 0xF465).setIndex 0x04B)).map (fun t => [t.reg 0, t.reg 1, t.reg 2, t.reg 3, t.reg 4, t.reg 5]) =
      some [0xF0, 0x80, 0xF0, 0x80, 0x80, 0] := by decide
/-- ME34, ME36. -/
theorem test_ldm_faults :
    faultAfter ((start 0xF165).setIndex 0xFFF) = some (some (.invalidMemoryRange .read 0xFFF 2), 0x200, 0) ∧
    faultAfter ((start 0xF065).setIndex 0xFFFF) = some (some (.invalidMemoryRange .read 0xFFFF 1), 0x200, 0) := by decide

/-! ## Display (DR) -/

/-- DR15. -/
theorem test_cls : litAfter [(1, 0)] ((start 0x00E0).setDisplay (Display.dark.writePixel 1 0 true)) =
    some ([false], 0) := by decide
/-- DR4, DR7, DR9. -/
theorem test_drw :
    litAfter [(62, 31), (63, 31), (6, 31), (7, 31)]
      ((withRegs [(0, 255), (1, 255)] (withMem 0x300 [0xFF] (start 0xD011))).setIndex 0x300) =
      some ([false, true, true, false], 0) ∧
    litAfter [(0, 0), (1, 0)] (((withMem 0x300 [0xC0] (start 0xD011)).setIndex 0x300).setDisplay
      (Display.dark.writePixel 1 0 true)) = some ([true, false], 1) ∧
    litAfter [(0, 0), (1, 0)] ((withRegs [(VF, 1)] ((withMem 0x300 [0x40] (start 0xD011)).setIndex 0x300)).setDisplay
      (Display.dark.writePixel 0 0 true)) = some ([true, true], 0) := by decide
/-- DR10, DR11, DR13, DR16. -/
theorem test_drw_corners :
    faultAfter ((start 0xD010).setIndex 0x300) = some (some .invalidRangeSize, 0x200, 0) ∧
    faultAfter ((start 0xD013).setIndex 0xFFE) = some (some (.invalidMemoryRange .read 0xFFE 3), 0x200, 0) ∧
    litAfter [(3, 2)] ((withRegs [(VF, 3), (1, 2)] (withMem 0x300 [0x80] (start 0xDF11))).setIndex 0x300) =
      some ([true], 0) ∧
    (slot ((withRegs [(0, 8)] (withMem 0x300 [0x80] (start 0xD011))).setIndex 0x300)).map
      (fun t => (t.display[0][0], t.display[0][1])) = some (0, 1) := by decide

/-! ## Keys and timers (KY) -/

/-- KY1, KY2, KY5. -/
theorem test_skp :
    (slot (withKeys 0x20 0 (withRegs [(1, 5)] (start 0xE19E)))).map (fun t => (t.pc, t.keyStatePrev)) =
      some (0x204, 0x20) ∧
    pcAfter (withKeys 0x20 0x20 (withRegs [(1, 4)] (start 0xE19E))) = some 0x202 ∧
    pcAfter (withKeys 0x8000 0 (withRegs [(1, 15)] (start 0xE19E))) = some 0x204 := by decide
/-- KY7. -/
theorem test_skp_bad_key : (slot (withKeys 0xFFFF 0 (withRegs [(1, 16)] (start 0xE19E)))).map
    (fun t => (t.fault, t.pc, t.keyStatePrev)) = some (some (.invalidKeyIndex 16), 0x200, 0) := by decide
/-- KY3, KY4. -/
theorem test_sknp : pcAfter (withKeys 0x20 0 (withRegs [(1, 5)] (start 0xE1A1))) = some 0x202 ∧
    pcAfter (withKeys 0x20 0 (withRegs [(1, 4)] (start 0xE1A1))) = some 0x204 := by decide
/-- KY8. -/
theorem test_sknp_bad_key : faultAfter (withRegs [(1, 16)] (start 0xE1A1)) =
    some (some (.invalidKeyIndex 16), 0x200, 0) := by decide
/-- KY9. -/
theorem test_ldt : regsAfter 4 0 ((start 0xF407).setDelayTimer 0x2A) = some (0x2A, 0, 0x202) := by decide
/-- KY10. -/
theorem test_lddt : (slot { withRegs [(5, 60)] (start 0xF515) with delayAccumulator := 7 }).map
    (fun t => (t.delayTimer, t.delayAccumulator)) = some (60, 7) := by decide
/-- KY11. -/
theorem test_ldst : (slot (withRegs [(5, 3)] (start 0xF518))).map State.soundTimer = some 3 := by decide
/-- S6 slot 1, KY13: the first entry does not test. -/
theorem test_ldk_entry : (slot (withKeys 0x10 0 (withRegs [(3, 0xEE)] (start 0xF30A)))).map
    (fun t => (t.pc, t.isWaitingForKey, t.reg 3, t.keyStatePrev)) = some (0x200, true, 0xEE, 0x10) := by decide
/-- S6 slots 2 and 3. -/
theorem test_ldk_waits_then_reads :
    (slot ((withRegs [(3, 0xEE)] (start 0xF30A)).setWaiting true)).map
      (fun t => (t.pc, t.isWaitingForKey, t.reg 3)) = some (0x200, true, 0xEE) ∧
    (slot (withKeys 0x84 0 ((withRegs [(3, 0xEE)] (start 0xF30A)).setWaiting true))).map
      (fun t => (t.pc, t.isWaitingForKey, t.reg 3, t.keyStatePrev)) = some (0x202, false, 2, 0x84) := by decide

/-! ## The step driver and the host's transactions (TM, HO) -/

/-- TM1, first two calls: the slots, then the timers of the second. -/
theorem test_driver_short_calls :
    (nextOf (stepCall 1 State.reset)).map (fun t => (t.pc, t.delayAccumulator, t.instructionAccumulator)) =
      some (0x200, 1, 1) ∧
    (nextOf (stepCall 1 { State.reset with delayAccumulator := 1, instructionAccumulator := 1 })).map
      (fun t => (t.pc, t.delayAccumulator, t.instructionAccumulator)) = some (0x202, 2, 0) := by decide
/-- TM2, the timer phase of `step(33)` after `step(0)`; TM4, the wrap. -/
theorem test_timer_phase :
    (fun t : State => (t.delayTimer, t.soundTimer, t.delayAccumulator))
      (timerPhase 33 { State.reset with delayTimer := 10, soundTimer := 6 }) = (8, 7, 1) ∧
    (timerPhase 0 { State.reset with soundTimer := 255 }).soundTimer = 0 ∧
    (timerPhase 5000 { State.reset with delayTimer := 200 }).delayTimer = 0 := by decide
/-- TM6. -/
theorem test_driver_fault :
    (nextOf (stepCall 10 (start 0xFFFF))).map (fun t => (t.fault, t.pc, t.delayAccumulator, t.instructionAccumulator)) =
      some (some (.unknownOpcode 0xFFFF), 0x200, 10, 0) ∧
    stepCall 10 (State.reset.halt .stackOverflow) = .next (State.reset.halt .stackOverflow) := by
  exact ⟨by decide, rfl⟩
/-- HO1, HO2, HO6. -/
theorem test_load :
    (nextOf (loadProgram [0x12, 0x34] State.reset)).map (fun t => t.memory.readBytes 0x1FF 4) = some [0, 0x12, 0x34, 0] ∧
    loadProgram [1, 2, 3] State.reset = .fault (.programOddLength 3) ∧
    loadProgram [] State.reset = .refused .emptyProgram := ⟨by decide, rfl, rfl⟩
/-- HO7, HO8, HO9. -/
theorem test_set_key :
    (nextOf (setKeyPressed 5 true State.reset)).map State.keyState = some 0x20 ∧
    (nextOf (setKeyPressed 5 false (withKeys 0x21 0 State.reset))).map State.keyState = some 1 ∧
    setKeyPressed 16 true State.reset = .refused .keyOutOfRange := ⟨by decide, by decide, rfl⟩
/-- HO10. -/
theorem test_read_pixel : pixelPort 64 0 State.reset = .error .pixelOutOfRange ∧
    pixelPort 63 31 State.reset = .ok false := by decide
/-- R32. -/
theorem test_validator :
    isValidRange 0xFFFF 2 .read = .ok false ∧ isValidRange 0xFFF 1 .read = .ok true ∧
    isValidRange 0x1FF 1 .write = .ok false ∧ isValidRange 0x200 0xE00 .write = .ok true ∧
    isValidRange 0 0 .read = .error .invalidRangeSize := by decide
/-- R140: the label numbers. -/
theorem test_fault_codes : faultCode (.unknownOpcode 0) = 1 ∧ faultCode (.programTooLarge 0) = 12 := by decide

/-! ## Witnesses: for each statement with hypotheses, inputs that meet them, each clause at a boundary -/

/-- A state of the invariant that is not the reset state: a program loaded. -/
def loaded : State := { State.reset with memory := [(0x200, 0xF1), (0x201, 0x0A)], loadable := false, isWaitingForKey := true }

theorem loaded_inv : loaded.Inv where
  memory_wf := by decide
  reserved a ha := by
    have h1 : 0x200 ≠ a := by omega
    have h2 : 0x201 ≠ a := by omega
    simp [loaded, Memory.readByte, h1, h2]
  pc_even := by decide
  pc_range := by decide
  stack_live k h hk := absurd hk (by simp [loaded, State.reset])
  delay_small := by decide
  instr_small := by decide
  waiting_ldk _ := ⟨by decide, 1, by decide⟩
  loadable_fresh h := by simp [loaded] at h

theorem test_witness_DecodeInvertsEncode : (Instr.shl 15 15).WellFormed := by decide
theorem test_witness_EncodeInvertsDecode : decodeWord 0x8FFE#16 = .ok (.shl 15 15) := by decide
theorem test_witness_IllegalWordsAreExactlyTheListed :
    (illegalWord 0x5001#16 ∧ illegalWord 0x9FFF#16 ∧ illegalWord 0x8008#16 ∧ illegalWord 0xE09D#16 ∧ illegalWord 0xFFFF#16) ∧
    (¬ illegalWord 0x5000#16 ∧ ¬ illegalWord 0x8007#16 ∧ ¬ illegalWord 0x800E#16 ∧ ¬ illegalWord 0xE09E#16 ∧
      ¬ illegalWord 0xFF65#16) := by
  refine ⟨⟨?_, ?_, ?_, ?_, ?_⟩, ?_, ?_, ?_, ?_, ?_⟩ <;> (dsimp only [illegalWord]; decide)

theorem fetches_of {s : State} {i : Instr} (h : (s.fault = none ∧ s.pc.toNat % 2 = 0 ∧ 0x200 ≤ s.pc.toNat ∧
    s.pc.toNat ≤ 0xFFE) ∧ decodeWord (codeWord s s.pc.toNat) = .ok i) : Fetches s i :=
  ⟨h.1.1, h.1.2, h.2⟩

/-- A slot that raises, and one that does not. -/
theorem test_witness_StepRunsTheDecodedInstruction :
    (Fetches (start 0x1FFF) (.jp 0xFFF) ∧ (nextOf (exec (.jp 0xFFF) (start 0x1FFF))).map (·.fault.isSome) = some true) ∧
    (Fetches (startAt 0xFFE 0x1200) (.jp 0x200) ∧
      (nextOf (exec (.jp 0x200) (startAt 0xFFE 0x1200))).map (·.fault) = some none) :=
  ⟨⟨fetches_of (by decide), by decide⟩, fetches_of (by decide), by decide⟩

theorem test_witness_FetchOutsideCodeHalts :
    ((State.reset.setPc 0x1FE).fault = none ∧ (0x1FE#16).toNat % 2 = 0 ∧ (0x1FE#16).toNat < 0x200) ∧
    ((State.reset.setPc 0x1000).fault = none ∧ (0x1000#16).toNat % 2 = 0 ∧ 0xFFE < (0x1000#16).toNat) ∧
    ((State.reset.setPc 0x201).fault = none ∧ (0x201#16).toNat % 2 = 1) := by decide

theorem test_witness_UnknownWordHalts : (startAt 0xFFE 0xFFFF).fault = none ∧ Executable (startAt 0xFFE 0xFFFF).pc ∧
    illegalWord (codeWord (startAt 0xFFE 0xFFFF) (startAt 0xFFE 0xFFFF).pc.toNat) := by
  unfold Executable illegalWord; decide

theorem test_witness_FaultingSlotWritesNothingElse : (start 0x1FFF).fault = none ∧
    (slot (start 0x1FFF)).map (·.fault) = some (some (.misalignedJumpTarget 0xFFF)) := by decide

theorem test_witness_HaltedMachineRunsNothing : (State.reset.halt .stackOverflow).fault = some .stackOverflow := rfl

/-- A self jump, and an `LDK` while a key is awaited. -/
theorem test_witness_SlotPcFollowsTheTable :
    (Fetches (start 0x1200) (.jp 0x200) ∧ (start 0x1200).isWaitingForKey = false ∧
      (slot (start 0x1200)).map (·.fault) = some none) ∧
    (Fetches loaded (.ldk 1) ∧ loaded.isWaitingForKey = true ∧ (slot loaded).map (·.fault) = some none) :=
  ⟨⟨fetches_of (by decide), by decide, by decide⟩, fetches_of (by decide), by decide, by decide⟩

theorem test_witness_KeySnapshotAfterEverySlot :
    (slot (start 0)).map (·.fault) = some none ∧ slotCount 1 State.reset = 0 ∧ (nextOf (stepCall 1 State.reset)).isSome := by
  decide

theorem test_witness_SysOnlyAdvances :
    (Fetches (startAt 0xFFE 0x0FFF) (.sys 0xFFF) ∧ (startAt 0xFFE 0x0FFF).isWaitingForKey = false) ∧
    (0x0E1#12 ≠ 0x0E0#12 ∧ 0x0E1#12 ≠ 0x0EE#12) := ⟨⟨fetches_of (by decide), rfl⟩, by decide⟩

theorem test_witness_JpGoesToItsTarget :
    ((0x200#12).toNat % 2 = 0 ∧ 0x200 ≤ (0x200#12).toNat) ∧ ((0xFFE#12).toNat % 2 = 0 ∧ 0x200 ≤ (0xFFE#12).toNat) ∧
    (0xFFF#12).toNat % 2 = 1 ∧ ((0x1FE#12).toNat % 2 = 0 ∧ (0x1FE#12).toNat < 0x200) := by decide

/-- Sums 0x200, 0xFFE, 0xFFF, 0x1FE and 0x1000. -/
theorem test_witness_JpTwoAddsVZero :
    (0x200 = (0x101#12).toNat + ((withRegs [(0, 0xFF)] State.reset).reg 0).toNat ∧ 0x200 % 2 = 0 ∧ 0x200 ≤ 0xFFE) ∧
    (0xFFE = (0xFFE#12).toNat + (State.reset.reg 0).toNat ∧ 0xFFE % 2 = 0 ∧ 0x200 ≤ 0xFFE) ∧
    (0xFFF = (0xFFE#12).toNat + ((withRegs [(0, 1)] State.reset).reg 0).toNat ∧ 0xFFF % 2 = 1) ∧
    (0x1FE = (0x0FF#12).toNat + ((withRegs [(0, 0xFF)] State.reset).reg 0).toNat ∧ 0x1FE % 2 = 0 ∧ 0x1FE < 0x200) ∧
    (0x1000 = (0xFFE#12).toNat + ((withRegs [(0, 2)] State.reset).reg 0).toNat ∧ 0x1000 % 2 = 0 ∧ 0xFFE < 0x1000) := by
  decide

theorem test_witness_CallPushesItsOwnAddress :
    (withStack 16 0 State.reset).sp.val = 16 ∧ (withStack 15 0 State.reset).sp.val < 16 ∧ (0x201#12).toNat % 2 = 1 ∧
    ((0x1FE#12).toNat % 2 = 0 ∧ (0x1FE#12).toNat < 0x200) ∧ ((0x200#12).toNat % 2 = 0 ∧ 0x200 ≤ (0x200#12).toNat) := by
  decide

/-- An empty stack; and a saved address for each clause: the return goes to 0x200, 0xFFE, 0x201, 0x1FE, 0x1000. -/
theorem test_witness_RetPopsAndAddsTwo :
    State.reset.sp.val = 0 ∧ 0 < (withStack 1 0xFFC State.reset).sp.val ∧
    [0x1FE, 0xFFC, 0x1FF, 0x1FC, 0xFFE].map (fun a => ((withStack 1 a State.reset).stack[0] + 2).toNat) =
      [0x200, 0xFFE, 0x201, 0x1FE, 0x1000] := by decide

theorem test_witness_CallThenRetReturns :
    Fetches (withMem 0xFFE [0x00, 0xEE] (startAt 0xFFC 0x2200)) (.call 0x200) ∧
    Fetches (withMem 0x300 [0x00, 0xEE] (start 0x2300)) (.call 0x300) ∧
    codeWord (withMem 0x300 [0x00, 0xEE] (start 0x2300)) 0x300 = 0x00EE#16 ∧
    ((start 0x2300).isWaitingForKey = false ∧ (start 0x2300).sp.val < 16 ∧ 0x300 % 2 = 0 ∧ 0x200 ≤ 0x300 ∧
      0x300 ≠ (start 0x2300).pc.toNat ∧ 0x300 ≠ (start 0x2300).pc.toNat + 2 ∧ (start 0x2300).pc.toNat < 0xFFE) :=
  ⟨fetches_of (by decide), fetches_of (by decide), by decide, by decide⟩

/-- `SE V0` with both outcomes, at the last code address. -/
theorem test_witness_SkipsTestAndAddFour :
    (Fetches (startAt 0xFFE 0x3000) (.se 0 0) ∧ (startAt 0xFFE 0x3000).isWaitingForKey = false ∧
      (startAt 0xFFE 0x3000).reg 0 = 0) ∧
    (Fetches (startAt 0xFFE 0x3001) (.se 0 1) ∧ (startAt 0xFFE 0x3001).isWaitingForKey = false ∧
      (startAt 0xFFE 0x3001).reg 0 ≠ 1) :=
  ⟨⟨fetches_of (by decide), by decide, by decide⟩, fetches_of (by decide), by decide, by decide⟩

/-- The clauses with a destination other than VF: `ADD2`, `SUB`, `SUBN`, `SHR`, `SHL`. -/
theorem test_witness_flag_statements : (14 : Reg) ≠ VF := by decide

theorem test_witness_RndMasksTheDraw : (0x0F#8).getLsbD 4 = false ∧ (3 : Reg) ≠ 2 := by decide

theorem test_witness_AddiAddsOrOverflows :
    (0xFF01#16).toNat + (0xFE#8).toNat ≤ 0xFFFF ∧ 0xFFFF < (0xFF01#16).toNat + (0xFF#8).toNat := by decide

theorem test_witness_LdfPointsAtTheGlyph : (15#8).toNat ≤ 15 ∧ 15 < (16#8).toNat := by decide

theorem test_witness_LdbStoresThreeDigits :
    (start 0xF333).memory.wf = true ∧ (0x200 ≤ (0x200#16).toNat ∧ (0x200#16).toNat ≤ 0xFFD) ∧
    (0x200 ≤ (0xFFD#16).toNat ∧ (0xFFD#16).toNat ≤ 0xFFD) ∧ ¬ (0x200 ≤ (0x1FF#16).toNat ∧ (0x1FF#16).toNat ≤ 0xFFD) ∧
    ¬ (0x200 ≤ (0xFFE#16).toNat ∧ (0xFFE#16).toNat ≤ 0xFFD) := by decide

theorem test_witness_LdaiStoresRegisters :
    (start 0xFF55).memory.wf = true ∧ (0x200 ≤ (0xFF0#16).toNat ∧ (0xFF0#16).toNat + (15 : Reg).val ≤ 0xFFF) ∧
    ¬ (0x200 ≤ (0xFF1#16).toNat ∧ (0xFF1#16).toNat + (15 : Reg).val ≤ 0xFFF) ∧
    ¬ (0x200 ≤ (0x1FF#16).toNat ∧ (0x1FF#16).toNat + (0 : Reg).val ≤ 0xFFF) ∧ (15 : Reg).val ≤ (15 : Reg).val := by decide

theorem test_witness_LdmLoadsRegisters :
    (0x000#16).toNat + (4 : Reg).val ≤ 0xFFF ∧ (0xFF0#16).toNat + (15 : Reg).val ≤ 0xFFF ∧
    0xFFF < (0xFFF#16).toNat + (1 : Reg).val ∧ (4 : Reg).val ≤ (4 : Reg).val ∧ (4 : Reg).val < (5 : Reg).val := by decide

/-- A sprite row at the top of memory; a covered pixel and one that is not. -/
theorem test_witness_DrwTogglesTheSpritePixels :
    0 < (15#4).toNat ∧ ((withMem 0xFFF [0x80] State.reset).setIndex 0xFF1).index.toNat + (15#4).toNat ≤ 0x1000 ∧
    SpriteCovers ((withMem 0xFFF [0x80] State.reset).setIndex 0xFF1) 63 31 15 63 13 ∧
    ¬ SpriteCovers State.reset 0 0 1 4 0 := by
  refine ⟨by decide, by decide, ⟨14, 0, by omega, by omega, by decide, by decide, by decide⟩, ?_⟩
  rintro ⟨r, c, hr, hc, hx, -, hb⟩
  obtain rfl : r = 0 := by omega
  obtain rfl : c = 4 := by
    have h : (4 : Fin 64).val = 4 := rfl
    have h0 : (0#8).toNat = 0 := rfl
    rw [h] at hx
    change 4 = (0 + c) % 64 at hx
    omega
  exact absurd hb (by decide)

/-- `DRW` erases a lit pixel, or none; neither coordinate register is VF. -/
theorem test_witness_DrwFlagReportsErasure :
    (0 < (1#4).toNat ∧ ((withMem 0xFFF [0x80] State.reset).setIndex 0xFFF).index.toNat + (1#4).toNat ≤ 0x1000) ∧
    (nextOf (exec (.drw 0 1 1) ((withMem 0xFFF [0x80] (State.reset.setDisplay (Display.dark.writePixel 0 0 true))).setIndex
      0xFFF))).map (fun t => (t.display.readPixel 0 0, t.reg 0, t.reg 1)) = some (false, 0, 0) ∧
    Display.dark.readPixel 0 0 = false := by decide

theorem test_witness_DrwRaisesOnBadSprite :
    (0#4).toNat = 0 ∧ (0 < (15#4).toNat ∧ 0x1000 < (0xFF2#16).toNat + (15#4).toNat) := by decide

/-- Keys 15 and 16; the slot clause of the skips. -/
theorem test_witness_SkipsOnKeyLevel :
    (15#8).toNat ≤ 15 ∧ 15 < (16#8).toNat ∧
    (Fetches (withKeys 0x8000 0 (withRegs [(1, 15)] (start 0xE19E))) (.skp 1) ∧
      (withKeys 0x8000 0 (withRegs [(1, 15)] (start 0xE19E))).isWaitingForKey = false) ∧
    Fetches (withKeys 0x8000 0 (withRegs [(1, 15)] (start 0xE1A1))) (.sknp 1) :=
  ⟨by decide, by decide, ⟨fetches_of (by decide), by decide⟩, fetches_of (by decide)⟩

/-- Not waiting; waiting with no edge; waiting with key 15 the lowest that went down. -/
theorem test_witness_LdkWaitsForAPress :
    (start 0xF30A).isWaitingForKey = false ∧
    (loaded.isWaitingForKey = true ∧ ∀ k, k < 16 → ¬ KeyEdge loaded k) ∧
    ((withKeys 0x8001 1 loaded).isWaitingForKey = true ∧ KeyEdge (withKeys 0x8001 1 loaded) 15 ∧
      ∀ j, j < 15 → ¬ KeyEdge (withKeys 0x8001 1 loaded) j) := by
  refine ⟨by decide, ⟨rfl, ?_⟩, rfl, ⟨by decide, by decide⟩, ?_⟩ <;> unfold KeyEdge <;> decide

theorem test_witness_BlockedSlotReexecutesLdk :
    (Fetches (start 0xF30A) (.ldk 3) ∧ (start 0xF30A).isWaitingForKey = false) ∧ Fetches loaded (.ldk 1) ∧
    (Fetches (withKeys 1 0 loaded) (.ldk 1) ∧ (withKeys 1 0 loaded).isWaitingForKey = true ∧
      KeyEdge (withKeys 1 0 loaded) 0) :=
  ⟨⟨fetches_of (by decide), by decide⟩, fetches_of (by decide), fetches_of (by decide), rfl, by decide, by decide⟩

theorem test_witness_RegistersOutsideTheListAreKept :
    (nextOf (exec (.ldm 2) State.reset)).isSome ∧ ¬ mayWriteReg (.ldm 2) 3 ∧ ¬ mayWriteReg (.add2 0 1) 1 := by
  refine ⟨by decide, ?_, ?_⟩ <;> unfold mayWriteReg <;> decide

theorem test_witness_MemoryOutsideTheStoreIsKept :
    (nextOf (exec (.ldb 0) (State.reset.setIndex 0x300))).isSome ∧
    (0x2FF < (State.reset.setIndex 0x300).index.toNat ∨ (State.reset.setIndex 0x300).index.toNat + storedBytes (.ldb 0) ≤ 0x2FF) ∧
    (0x303 < (State.reset.setIndex 0x300).index.toNat ∨
      (State.reset.setIndex 0x300).index.toNat + storedBytes (.ldb 0) ≤ 0x303) := by decide

theorem test_witness_MachineRegistersAreKept :
    (nextOf (exec (.ldf 0) State.reset)).isSome ∧ mayWritePc (.ldf 0) = false ∧ usesStack (.ldf 0) = false ∧
    (∀ nnn, Instr.ldf 0 ≠ .call nnn) ∧ mayWriteIndex .ret = false ∧ (nextOf (exec .ret State.reset)).isSome :=
  ⟨by decide, rfl, rfl, nofun, rfl, by decide⟩

theorem test_witness_DevicesAndCountersAreKept :
    (nextOf (exec (.ldt 0) State.reset)).isSome ∧ mayWriteDisplay (.ldt 0) = false ∧ (∀ x, Instr.ldt 0 ≠ .lddt x) ∧
    (∀ x, Instr.ldt 0 ≠ .ldst x) ∧ (∀ x, Instr.ldt 0 ≠ .ldk x) ∧ (∀ x kk, Instr.ldt 0 ≠ .rnd x kk) :=
  ⟨by decide, rfl, nofun, nofun, nofun, nofun⟩

theorem test_witness_ValidatorAcceptsExactlyTheMap :
    (0x001#16 ≠ 0 ∧ (0xFFF#16).toNat + (1#16).toNat ≤ 0x1000) ∧ 0x200 ≤ (0x200#16).toNat ∧
    (0x002#16 ≠ 0 ∧ ¬ ((0xFFF#16).toNat + (2#16).toNat ≤ 0x1000 ∧ (Usage.read = .read ∨ 0x200 ≤ (0xFFF#16).toNat))) ∧
    ¬ ((0x1FF#16).toNat + (1#16).toNat ≤ 0x1000 ∧ (Usage.write = .read ∨ 0x200 ≤ (0x1FF#16).toNat)) := by decide

theorem test_witness_CheckedReadGivesTheBytes :
    (0 : Nat) < 65536 ∧ isValidRange 0xFFF (BitVec.ofNat 16 2) .read = .ok false ∧
    isValidRange 0xFFF (BitVec.ofNat 16 1) .read = .ok true := by decide

theorem test_witness_CheckedWriteStoresTheBytes :
    State.reset.memory.wf = true ∧ ([] : List Byte).length = 0 ∧
    isValidRange 0x1FF (BitVec.ofNat 16 [(7 : Byte)].length) .write = .ok false ∧
    isValidRange 0x200 (BitVec.ofNat 16 [(7 : Byte)].length) .write = .ok true ∧
    isValidRange 0xFFF (BitVec.ofNat 16 [(7 : Byte)].length) .write = .ok true := by decide

theorem test_witness_TimerPhaseMovesBothTimers :
    State.reset.delayAccumulator.toNat + (0xFFFFFFF0#32).toNat < 2 ^ 32 ∧ State.reset.soundTimer = 0 ∧
    (State.reset.setSoundTimer 255).soundTimer ≠ 0 := by decide

theorem test_witness_ShortCallMovesOnlyTheClock :
    State.reset.fault = none ∧ State.reset.instructionAccumulator.toNat < 2 ∧ 0xFFFFFFF0 < (0xFFFFFFF1#32).toNat ∧
    State.reset.instructionAccumulator.toNat + (1#32).toNat < 2 := by decide

/-- Five slots due, and the longest legal call with a millisecond left over from before. -/
theorem test_witness_StepCallRunsTheDueSlots :
    ((start 0xFFFF).fault = none ∧ (start 0xFFFF).instructionAccumulator.toNat < 2 ∧ (10#32).toNat ≤ 0xFFFFFFF0) ∧
    ({ State.reset with instructionAccumulator := 1 }.fault = none ∧
      { State.reset with instructionAccumulator := 1 }.instructionAccumulator.toNat < 2 ∧
      (0xFFFFFFF0#32).toNat ≤ 0xFFFFFFF0) := by decide

theorem test_witness_SlotsLoseNoMillisecond :
    State.reset.instructionAccumulator.toNat < 2 ∧ ∀ d ∈ [1#32, 0xFFFFFFF0#32], d.toNat ≤ 0xFFFFFFF0 :=
  ⟨by decide, List.forall_mem_cons.mpr ⟨by decide, List.forall_mem_singleton.mpr (by decide)⟩⟩

/-- One slot that ends, one that faults. -/
theorem test_witness_SlotsRunInSequence :
    State.reset.fault = none ∧ (nextOf (runSlots 1 State.reset)).map (·.fault) = some none ∧
    (start 0xFFFF).fault = none ∧
    (nextOf (runSlots 1 (start 0xFFFF))).map (·.fault) = some (some (.unknownOpcode 0xFFFF)) := by decide

theorem test_witness_SlotsAreStepsOfTheCore : (nextOf (runSlots 2 (start 0x1208))).map (·.fault) = some none := by decide

theorem test_witness_CallAlwaysReturns : loaded.Inv ∧ loaded.fault = none ∧ (0xFFFFFFF0#32).toNat ≤ 0xFFFFFFF0 :=
  ⟨loaded_inv, rfl, by decide⟩

/-- A fresh machine, a loaded one and a halted one; lengths 1, 3585, 3586 and 3584. -/
theorem test_witness_ProgramLoadWritesFromBase :
    (State.reset.loadable = true ∧ State.reset.fault = none ∧ State.reset.memory.wf = true) ∧ loaded.loadable = false ∧
    ((State.reset.halt .stackOverflow).loadable = true ∧ (State.reset.halt .stackOverflow).fault ≠ none) ∧
    ([0#8].length % 2 = 1 ∧ (List.replicate 3585 0#8).length % 2 = 1) ∧
    ((List.replicate 3586 0#8).length % 2 = 0 ∧ 3584 < (List.replicate 3586 0#8).length) ∧
    ((List.replicate 3584 0#8).length % 2 = 0 ∧ (List.replicate 3584 0#8).length ≤ 3584 ∧
      List.replicate 3584 0#8 ≠ []) := by
  refine ⟨by decide, rfl, by decide, ?_⟩
  simp only [List.length_replicate]
  exact ⟨by decide, by decide, by decide, by decide, List.ne_nil_of_length_pos (by rw [List.length_replicate]; decide)⟩

theorem test_witness_KeyInputWritesOneBit : (15 : Nat) ≤ 15 ∧ (15 : Nat) < 16 ∧ (14 : Nat) ≠ 15 := by decide

theorem test_witness_PixelPortReadsThePackedBit : ((63 : Nat) < 64 ∧ (31 : Nat) < 32) ∧ 64 ≤ (64 : Nat) ∧ 32 ≤ (32 : Nat) := by
  decide

theorem test_witness_ResetLeavesTheStatedValues : (0x4F < glyphBytes.length ∧ 15 < 16) ∧ (0x50 ≤ 0x50 ∧ 0x50 ≤ 0xFFF) ∧
    (0x50 ≤ 0xFFF ∧ 0xFFF ≤ 0xFFF) := by decide

theorem test_witness_StepKeepsTheInvariant : loaded.Inv ∧ (slot loaded).isSome := ⟨loaded_inv, by decide⟩

theorem test_witness_HostActionsKeepTheInvariant :
    loaded.Inv ∧ (nextOf (applyAction (.stepMs 3) loaded)).isSome ∧ (nextOf (applyAction (.setKey 15 true) loaded)).isSome :=
  ⟨loaded_inv, by decide, by decide⟩

theorem test_witness_ReservedMemoryIsNeverWritten : 0x1FF < 0x200 ∧ (slot (start 0xF333)).isSome := by decide

theorem test_witness_SlotsIgnoreAccumulatorsAndSound : (slot (start 0xF518)).isSome := by decide

end Sys2Proof.Tests
end

/-!
SUPPORT. Everything the meaning of an instruction can do to the machine (spec 10_state.md R28), said once: `Effect`. The
frames and the invariant are read off its constructors and do not unfold `exec` again.
-/

namespace Sys2Proof.Machine

/-- What `exec i s` can leave when it answers a next state, one constructor per kind of write. -/
inductive Effect : Instr → State → State → Prop
  /-- A failed check (R141, R142). -/
  | raise (i : Instr) (s : State) (c : Fault) : Effect i s (s.halt c)
  /-- `SYS`, a skip whose condition fails, `LDK` while no key goes down. -/
  | keep (i : Instr) (s : State) : Effect i s s
  /-- General registers alone, inside the list of R28. -/
  | regs {i : Instr} {s : State} (v : Regs) (hv : ∀ r, ¬ mayWriteReg i r → (s.setRegs v).reg r = s.reg r) :
      Effect i s (s.setRegs v)
  | jump {i : Instr} {s : State} {a : Word} (hi : mayWritePc i = true) (ha : Executable a) : Effect i s (s.setPc a)
  | skip {i : Instr} {s : State} (hi : mayWritePc i = true) : Effect i s (s.setPc (s.pc + 4))
  | call {nnn : BitVec 12} {s : State} (hsp : s.sp.val < 16) (ha : Executable (addressOf nnn)) :
      Effect (.call nnn) s ((s.push s.pc).setPc (addressOf nnn))
  | ret {s : State} (hsp : 0 < s.sp.val) (ha : Executable (returnTarget s)) :
      Effect .ret s ((s.setPc (returnTarget s)).pop)
  | index {i : Instr} {s : State} {a : Word} (hi : mayWriteIndex i = true) : Effect i s (s.setIndex a)
  /-- A checked store of the instruction's bytes from `index` up (R34, R114). -/
  | store {i : Instr} {s : State} (bytes : List Byte) (hlen : bytes.length = storedBytes i)
      (hlo : 0x200 ≤ s.index.toNat) (hhi : s.index.toNat + bytes.length ≤ 0x1000) :
      Effect i s (s.setMemory (s.memory.writeBytes s.index.toNat bytes))
  | cls (s : State) : Effect .cls s (s.setDisplay Display.dark)
  | drw (x y : Reg) (n : BitVec 4) (s : State) (d : Display) (b : Byte) :
      Effect (.drw x y n) s ((s.setDisplay d).setV VF b)
  | rnd (x : Reg) (kk : Byte) (s : State) :
      Effect (.rnd x kk) s ((s.setV x (Config.drawByte s.draws &&& kk)).countDraw)
  | delayTimer (x : Reg) (s : State) : Effect (.lddt x) s (s.setDelayTimer (s.reg x))
  | soundTimer (x : Reg) (s : State) : Effect (.ldst x) s (s.setSoundTimer (s.reg x))
  /-- `LDK` on first entry (R133). -/
  | await (x : Reg) (s : State) : Effect (.ldk x) s (s.setWaiting true)
  /-- `LDK` when a key has gone down (R133). -/
  | key (x : Reg) (s : State) (b : Byte) : Effect (.ldk x) s ((s.setV x b).setWaiting false)

/-! ## The shared operations are effects -/

/-- The effect of a meaning that answers `u` outright. -/
theorem Effect.of_next {i : Instr} {s t u : State} (e : Effect i s u) (h : Host.Outcome.next u = (.next t : Answer)) :
    Effect i s t := by
  cases h; exact e

theorem Effect.of_setV {i : Instr} {x : Reg} {b : Byte} {s t : State} (hx : mayWriteReg i x)
    (h : Host.Outcome.next (s.setV x b) = (.next t : Answer)) : Effect i s t :=
  (Effect.regs (s.v.set x.val b) fun _ hr => State.reg_setV_ne s b (by rintro rfl; exact hr hx)).of_next h

theorem Effect.setV_setV {i : Instr} {x y : Reg} (hx : mayWriteReg i x) (hy : mayWriteReg i y) (s : State)
    (a b : Byte) : Effect i s ((s.setV x a).setV y b) :=
  .regs ((s.v.set x.val a).set y.val b) fun _ hr =>
    (State.reg_setV_ne (s.setV x a) b (by rintro rfl; exact hr hy)).trans
      (State.reg_setV_ne s a (by rintro rfl; exact hr hx))

theorem Effect.of_resultThenFlag {i : Instr} {x : Reg} {result flag : Byte} {s t : State} (hx : mayWriteReg i x)
    (hf : mayWriteReg i VF) (h : resultThenFlag x result flag s = .next t) : Effect i s t :=
  (Effect.setV_setV hx hf s result flag).of_next h

theorem Effect.of_flagThenResult {i : Instr} {x : Reg} {flag result : Byte} {s t : State} (hx : mayWriteReg i x)
    (hf : mayWriteReg i VF) (h : flagThenResult x flag result s = .next t) : Effect i s t :=
  (Effect.setV_setV hf hx s flag result).of_next h

theorem Effect.of_jumpTo {i : Instr} {s t : State} {a : Word} (hi : mayWritePc i = true)
    (h : jumpTo a s = .next t) : Effect i s t := by
  rcases jumpTo_next h with ⟨ha, rfl⟩ | ⟨c, rfl⟩
  · exact .jump hi (checkJump_ok.1 ha)
  · exact .raise i s c

theorem Effect.of_skipIf {i : Instr} {s t : State} {b : Bool} (hi : mayWritePc i = true)
    (h : skipIf b s = .next t) : Effect i s t := by
  rcases skipIf_next h with ⟨-, rfl⟩ | ⟨-, rfl⟩
  · exact .skip hi
  · exact .keep i _

theorem Effect.of_storeAtIndex {i : Instr} {s t : State} {bytes : List Byte} (hlen : bytes.length = storedBytes i)
    (hn : bytes.length < 65536) (h : storeAtIndex bytes s = .next t) : Effect i s t := by
  rcases storeAtIndex_next hn h with ⟨hlo, hhi, rfl⟩ | ⟨c, rfl⟩
  · exact .store bytes hlen hlo hhi
  · exact .raise i s c

/-! ## The instructions with a check or a branch of their own -/

theorem Effect.of_execRet {s t : State} (h : execRet s = .next t) : Effect .ret s t := by
  unfold execRet at h
  split at h
  · exact (Effect.raise .ret s _).of_next h
  · rcases orRaise_next h with ⟨_, ha, hk⟩ | ⟨c, -, rfl⟩
    · exact (Effect.ret (by omega) (checkJump_ok.1 ha)).of_next hk
    · exact .raise .ret s c

theorem Effect.of_execCall {nnn : BitVec 12} {s t : State} (h : execCall nnn s = .next t) :
    Effect (.call nnn) s t := by
  unfold execCall at h
  split at h
  · exact (Effect.raise _ s _).of_next h
  · rename_i hfull
    have hsp : s.sp.val < 16 := by
      have := s.sp.isLt
      simp only [Config.stackDepth] at hfull
      omega
    rcases orRaise_next h with ⟨_, ha, hk⟩ | ⟨c, -, rfl⟩
    · exact (Effect.call hsp (checkJump_ok.1 ha)).of_next hk
    · exact .raise _ s c

theorem Effect.of_execDrw {x y : Reg} {n : BitVec 4} {s t : State} (h : execDrw x y n s = .next t) :
    Effect (.drw x y n) s t := by
  rcases orRaise_next h with ⟨rows, -, hk⟩ | ⟨c, -, rfl⟩
  · exact (Effect.drw x y n s _ _).of_next hk
  · exact .raise _ s c

theorem Effect.of_execAddi {x : Reg} {s t : State} (h : execAddi x s = .next t) : Effect (.addi x) s t := by
  unfold execAddi at h
  split at h
  · exact (Effect.raise _ s _).of_next h
  · exact (Effect.index rfl).of_next h

theorem Effect.of_execLdf {x : Reg} {s t : State} (h : execLdf x s = .next t) : Effect (.ldf x) s t := by
  unfold execLdf at h
  split at h
  · exact (Effect.index rfl).of_next h
  · exact (Effect.raise _ s _).of_next h

/-- `LDM` writes the registers up to `x`, as many as the bytes it read. -/
theorem Effect.of_execLdm {x : Reg} {s t : State} (h : execLdm x s = .next t) : Effect (.ldm x) s t := by
  rcases orRaise_next h with ⟨bytes, hread, hk⟩ | ⟨c, -, rfl⟩
  · obtain ⟨-, -, rfl⟩ := memRead_ok (by omega) hread
    refine Effect.of_next (.regs _ fun r (hr : ¬ r.val ≤ x.val) => ?_) hk
    simp only [State.reg, State.setRegs_v]
    rw [putRegs_get _ _ _ _ r.isLt, dif_neg (by rw [Memory.length_readBytes]; omega)]
  · exact .raise _ s c

theorem Effect.of_execSkp {x : Reg} {s t : State} (h : execSkp x s = .next t) : Effect (.skp x) s t := by
  rcases orRaise_next h with ⟨_, -, hk⟩ | ⟨c, -, rfl⟩
  · exact .of_skipIf rfl hk
  · exact .raise _ s c

theorem Effect.of_execSknp {x : Reg} {s t : State} (h : execSknp x s = .next t) : Effect (.sknp x) s t := by
  rcases orRaise_next h with ⟨_, -, hk⟩ | ⟨c, -, rfl⟩
  · split at hk
    · exact (Effect.keep _ s).of_next hk
    · exact (Effect.skip rfl).of_next hk
  · exact .raise _ s c

theorem Effect.of_execLdk {x : Reg} {s t : State} (h : execLdk x s = .next t) : Effect (.ldk x) s t := by
  unfold execLdk at h
  split at h
  · split at h
    · exact (Effect.key x s _).of_next h
    · exact (Effect.keep _ s).of_next h
  · exact (Effect.await x s).of_next h

/-- Every next state that a meaning answers is one of the effects. -/
theorem effect_of_exec {i : Instr} {s t : State} (h : exec i s = .next t) : Effect i s t := by
  cases i with
  | cls => exact (Effect.cls s).of_next h
  | ret => exact .of_execRet h
  | sys nnn => exact (Effect.keep _ s).of_next h
  | jp nnn => exact .of_jumpTo rfl h
  | call nnn => exact .of_execCall h
  | se x kk => exact .of_skipIf rfl h
  | sne x kk => exact .of_skipIf rfl h
  | se2 x y => exact .of_skipIf rfl h
  | sne2 x y => exact .of_skipIf rfl h
  | ld x kk => exact .of_setV rfl h
  | ld2 x y => exact .of_setV rfl h
  | add x kk => exact .of_setV rfl h
  | or x y => exact .of_setV rfl h
  | and x y => exact .of_setV rfl h
  | xor x y => exact .of_setV rfl h
  | add2 x y => exact .of_resultThenFlag (.inl rfl) (.inr rfl) h
  | sub x y => exact .of_resultThenFlag (.inl rfl) (.inr rfl) h
  | subn x y => exact .of_resultThenFlag (.inl rfl) (.inr rfl) h
  | shr x y => exact .of_flagThenResult (.inl rfl) (.inr rfl) h
  | shl x y => exact .of_flagThenResult (.inl rfl) (.inr rfl) h
  | ldi nnn => exact (Effect.index rfl).of_next h
  | jp2 nnn => exact .of_jumpTo rfl h
  | rnd x kk => exact (Effect.rnd x kk s).of_next h
  | drw x y n => exact .of_execDrw h
  | skp x => exact .of_execSkp h
  | sknp x => exact .of_execSknp h
  | ldt x => exact .of_setV rfl h
  | ldk x => exact .of_execLdk h
  | lddt x => exact (Effect.delayTimer x s).of_next h
  | ldst x => exact (Effect.soundTimer x s).of_next h
  | addi x => exact .of_execAddi h
  | ldf x => exact .of_execLdf h
  | ldb x => exact .of_storeAtIndex rfl (by simp [decimalDigits]) h
  | ldai x => exact .of_storeAtIndex (s.length_regsUpTo x) (by rw [State.length_regsUpTo]; omega) h
  | ldm x => exact .of_execLdm h

/-! ## What an effect keeps -/

/-- Registers outside the list of R28. -/
theorem Effect.reg_eq {i : Instr} {s t : State} (e : Effect i s t) {r : Reg} (hr : ¬ mayWriteReg i r) :
    t.reg r = s.reg r := by
  cases e with
  | regs v hv => exact hv r hr
  | drw x y n s d b => exact State.reg_setV_ne (s.setDisplay d) b hr
  | rnd x kk s => exact State.reg_setV_ne s _ hr
  | key x s b => exact State.reg_setV_ne s b hr
  | _ => rfl

theorem Effect.pc_eq {i : Instr} {s t : State} (e : Effect i s t) (hi : mayWritePc i = false) : t.pc = s.pc := by
  cases e with
  | jump h | skip h => rw [hi] at h; cases h
  | call | ret => cases hi
  | _ => rfl

theorem Effect.sp_eq {i : Instr} {s t : State} (e : Effect i s t) (hi : usesStack i = false) : t.sp = s.sp := by
  cases e with
  | call | ret => cases hi
  | _ => rfl

theorem Effect.stack_eq {i : Instr} {s t : State} (e : Effect i s t) (hi : ∀ nnn, i ≠ .call nnn) :
    t.stack = s.stack := by
  cases e with
  | @call nnn => exact absurd rfl (hi nnn)
  | _ => rfl

theorem Effect.index_eq {i : Instr} {s t : State} (e : Effect i s t) (hi : mayWriteIndex i = false) :
    t.index = s.index := by
  cases e with
  | index h => rw [hi] at h; cases h
  | _ => rfl

theorem Effect.display_eq {i : Instr} {s t : State} (e : Effect i s t) (hi : mayWriteDisplay i = false) :
    t.display = s.display := by
  cases e with
  | cls | drw => cases hi
  | _ => rfl

theorem Effect.delayTimer_eq {i : Instr} {s t : State} (e : Effect i s t) (hi : ∀ x, i ≠ .lddt x) :
    t.delayTimer = s.delayTimer := by
  cases e with
  | delayTimer x => exact absurd rfl (hi x)
  | _ => rfl

theorem Effect.soundTimer_eq {i : Instr} {s t : State} (e : Effect i s t) (hi : ∀ x, i ≠ .ldst x) :
    t.soundTimer = s.soundTimer := by
  cases e with
  | soundTimer x => exact absurd rfl (hi x)
  | _ => rfl

theorem Effect.isWaitingForKey_eq {i : Instr} {s t : State} (e : Effect i s t) (hi : ∀ x, i ≠ .ldk x) :
    t.isWaitingForKey = s.isWaitingForKey := by
  cases e with
  | await x | key x => exact absurd rfl (hi x)
  | _ => rfl

theorem Effect.draws_eq {i : Instr} {s t : State} (e : Effect i s t) (hi : ∀ x kk, i ≠ .rnd x kk) :
    t.draws = s.draws := by
  cases e with
  | rnd x kk => exact absurd rfl (hi x kk)
  | _ => rfl

theorem Effect.keyState_eq {i : Instr} {s t : State} (e : Effect i s t) : t.keyState = s.keyState := by
  cases e <;> rfl

theorem Effect.keyStatePrev_eq {i : Instr} {s t : State} (e : Effect i s t) : t.keyStatePrev = s.keyStatePrev := by
  cases e <;> rfl

theorem Effect.delayAccumulator_eq {i : Instr} {s t : State} (e : Effect i s t) :
    t.delayAccumulator = s.delayAccumulator := by
  cases e <;> rfl

theorem Effect.instructionAccumulator_eq {i : Instr} {s t : State} (e : Effect i s t) :
    t.instructionAccumulator = s.instructionAccumulator := by
  cases e <;> rfl

theorem Effect.loadable_eq {i : Instr} {s t : State} (e : Effect i s t) : t.loadable = s.loadable := by
  cases e <;> rfl

/-- An effect leaves `fault` alone or is a raise, which writes nothing else (R142). -/
theorem Effect.fault_eq_or_halt {i : Instr} {s t : State} (e : Effect i s t) :
    t.fault = s.fault ∨ ∃ c, t = s.halt c := by
  cases e with
  | raise i s c => exact .inr ⟨c, rfl⟩
  | _ => exact .inl rfl

/-- An instruction that stores no bytes leaves memory alone. -/
theorem Effect.memory_eq {i : Instr} {s t : State} (e : Effect i s t) (hi : storedBytes i = 0) :
    t.memory = s.memory := by
  cases e with
  | store bytes hlen =>
    rw [State.setMemory_memory, List.eq_nil_of_length_eq_zero (hlen.trans hi), Memory.writeBytes]
  | _ => rfl

/-! ## The frames (R28) -/

/-- Settles O38: the register frame of `Effect`. -/
theorem registersOutsideTheListAreKept : Obligations.RegistersOutsideTheListAreKept :=
  fun _ _ _ _ h hr => (effect_of_exec h).reg_eq hr

/-- Settles O40: one frame of `Effect` for each of `pc`, `sp`, the stack and `index`. -/
theorem machineRegistersAreKept : Obligations.MachineRegistersAreKept := by
  intro i s t h
  have e := effect_of_exec h
  exact ⟨e.pc_eq, e.sp_eq, e.stack_eq, e.index_eq⟩

/-- Settles O41: one frame of `Effect` for each device and counter, and what a raise leaves. -/
theorem devicesAndCountersAreKept : Obligations.DevicesAndCountersAreKept := by
  intro i s t h
  have e := effect_of_exec h
  exact ⟨e.display_eq, e.delayTimer_eq, e.soundTimer_eq, e.isWaitingForKey_eq, e.draws_eq, e.keyState_eq,
    e.keyStatePrev_eq, e.delayAccumulator_eq, e.instructionAccumulator_eq, e.loadable_eq, e.fault_eq_or_halt⟩

end Sys2Proof.Machine

/-!
SUPPORT. The invariant of reachable states through one slot, field by field: what an effect keeps of each, then what the
end of the slot keeps.
-/

namespace Sys2Proof.Machine

/-! ## The end of the slot: the advance writes `pc` alone -/

@[simp] theorem advance_memory (a : Word) (s : State) : (advance a s).memory = s.memory := by
  unfold advance; split <;> rfl
@[simp] theorem advance_sp (a : Word) (s : State) : (advance a s).sp = s.sp := by
  unfold advance; split <;> rfl
@[simp] theorem advance_stack (a : Word) (s : State) : (advance a s).stack = s.stack := by
  unfold advance; split <;> rfl
@[simp] theorem advance_delayAccumulator (a : Word) (s : State) :
    (advance a s).delayAccumulator = s.delayAccumulator := by
  unfold advance; split <;> rfl
@[simp] theorem advance_instructionAccumulator (a : Word) (s : State) :
    (advance a s).instructionAccumulator = s.instructionAccumulator := by
  unfold advance; split <;> rfl
@[simp] theorem advance_isWaitingForKey (a : Word) (s : State) :
    (advance a s).isWaitingForKey = s.isWaitingForKey := by
  unfold advance; split <;> rfl

/-! ## What an effect keeps of each field of the invariant -/

theorem Effect.memory_wf {i : Instr} {s t : State} (e : Effect i s t) (h : s.memory.wf = true) :
    t.memory.wf = true := by
  cases e with
  | store bytes => exact Memory.wf_writeBytes h _ bytes
  | _ => exact h

/-- The write check keeps every store at 0x200 or above (R31, R39). -/
theorem Effect.readByte_reserved {i : Instr} {s t : State} (e : Effect i s t) {a : Nat} (ha : a < 0x200) :
    t.memory.readByte a = s.memory.readByte a := by
  cases e with
  | store bytes _ hlo => exact Memory.readByte_writeBytes_outside _ bytes (.inl (by omega))
  | _ => rfl

/-- `pc` stays, skips the next word, or takes a checked target. -/
theorem Effect.pc_cases {i : Instr} {s t : State} (e : Effect i s t) :
    t.pc = s.pc ∨ t.pc = s.pc + 4 ∨ Executable t.pc := by
  cases e with
  | skip => exact .inr (.inl rfl)
  | jump _ ha | call _ ha | ret _ ha => exact .inr (.inr ha)
  | _ => exact .inl rfl

/-- Every live stack slot holds the address of an instruction (R13, R78). -/
def State.StackLive (s : State) : Prop := ∀ k, (h : k < 16) → k < s.sp.val → Executable s.stack[k]

/-- `CALL` pushes its own address, which was executable; `RET` only lowers `sp`. -/
theorem Effect.stackLive {i : Instr} {s t : State} (e : Effect i s t) (hpc : Executable s.pc) (h : s.StackLive) :
    t.StackLive := by
  cases e with
  | @call _ _ hsp _ =>
    intro k hk hlive
    change k < (s.push s.pc).sp.val at hlive
    change Executable (s.push s.pc).stack[k]
    rw [State.push_sp_val s s.pc hsp] at hlive
    rw [State.push_stack_get]
    split
    · exact hpc
    · exact h k hk (by omega)
  | @ret _ hsp _ =>
    intro k hk hlive
    change k < s.pop.sp.val at hlive
    rw [State.pop_sp_val s hsp] at hlive
    exact h k hk (by omega)
  | _ => exact h

/-! ## A slot keeps the invariant -/

/-- A raise writes `fault` alone, which the invariant does not mention. -/
theorem State.Inv.halt {s : State} (h : s.Inv) (c : Fault) : (s.halt c).Inv where
  memory_wf := h.memory_wf
  reserved := h.reserved
  pc_even := h.pc_even
  pc_range := h.pc_range
  stack_live := h.stack_live
  delay_small := h.delay_small
  instr_small := h.instr_small
  waiting_ldk := h.waiting_ldk
  loadable_fresh := h.loadable_fresh

/-- After the advance `pc` is even and in 0x200 to 0x1002: the last executable word is at 0xFFE, and a skip from there
adds 4 (R12, R66). -/
theorem advance_pc_range {i : Instr} {s u : State} (e : Effect i s u) (hpc : Executable s.pc) :
    (advance s.pc u).pc.toNat % 2 = 0 ∧ 0x200 ≤ (advance s.pc u).pc.toNat ∧ (advance s.pc u).pc.toNat ≤ 0x1002 := by
  have hadd (k : Nat) (hk : k ≤ 4) : (s.pc + BitVec.ofNat 16 k).toNat = s.pc.toNat + k := by
    have := hpc.2.2
    rw [BitVec.toNat_add, BitVec.toNat_ofNat]
    omega
  have h2 : (s.pc + 2).toNat = s.pc.toNat + 2 := hadd 2 (by omega)
  have h4 : (s.pc + 4).toNat = s.pc.toNat + 4 := hadd 4 (by omega)
  obtain ⟨heven, hlo, hhi⟩ := hpc
  rw [advance_pc]
  split
  · next hsame => rw [hsame.1]; omega
  · rcases e.pc_cases with h | h | ⟨hteven, htlo, hthi⟩
    · rw [h]; omega
    · rw [h]; omega
    · omega

/-- A machine that waits after an instruction has executed an `LDK`: either it was waiting at one or it has begun to. -/
theorem ldk_of_waiting {i : Instr} {s u : State} (hs : s.Inv) (hf : Fetches s i) (e : Effect i s u)
    (hw : u.isWaitingForKey = true) : ∃ x, i = .ldk x := by
  by_contra hno
  have hne : ∀ x, i ≠ .ldk x := fun x hx => hno ⟨x, hx⟩
  obtain ⟨-, x, hx⟩ := hs.waiting_ldk ((e.isWaitingForKey_eq hne).symm.trans hw)
  obtain ⟨-, -, hdec⟩ := hf
  exact hne x (Except.ok.inj (hdec.symm.trans hx))

/-- The invariant after a slot whose instruction did not raise. -/
theorem State.Inv.slot_end {i : Instr} {s u : State} (hs : s.Inv) (hf : Fetches s i) (e : Effect i s u) :
    ((advance s.pc u).snapshot).Inv where
  memory_wf := by simpa using e.memory_wf hs.memory_wf
  reserved a ha := by simpa using (e.readByte_reserved ha).trans (hs.reserved a ha)
  pc_even := (advance_pc_range e hf.2.1).1
  pc_range := (advance_pc_range e hf.2.1).2
  stack_live := by simpa [State.StackLive] using e.stackLive hf.2.1 hs.stack_live
  delay_small := by simpa [e.delayAccumulator_eq] using hs.delay_small
  instr_small := by simpa [e.instructionAccumulator_eq] using hs.instr_small
  waiting_ldk hw := by
    have hwu : u.isWaitingForKey = true := by simpa using hw
    obtain ⟨x, rfl⟩ := ldk_of_waiting hs hf e hwu
    obtain ⟨-, ⟨-, -, hhi⟩, hdec⟩ := hf
    have hpc : ((advance s.pc u).snapshot).pc = s.pc := by
      rw [State.snapshot_pc, advance_pc, if_neg (by simp [hwu]), e.pc_eq rfl]
    have hmem : ((advance s.pc u).snapshot).memory = s.memory := by
      rw [State.snapshot_memory, advance_memory, e.memory_eq rfl]
    rw [hpc, codeWord, hmem]
    exact ⟨hhi, x, hdec⟩
  loadable_fresh h := by simp at h

/-- Settles O56: a raise keeps the invariant, and so does the end of every other slot. -/
theorem stepKeepsTheInvariant : Obligations.StepKeepsTheInvariant := by
  intro s t hs h
  rcases step_next h with ⟨c, -, -, -, rfl⟩ | ⟨i, u, hf, hu, rfl⟩
  · exact hs.halt c
  · have e := effect_of_exec hu
    rcases e.fault_eq_or_halt with hnone | ⟨c, rfl⟩
    · rw [postExecute_running (hnone.trans hf.1)]
      exact hs.slot_end hf e
    · rw [postExecute_halted (State.halt_fault s c)]
      exact hs.halt c

end Sys2Proof.Machine

/-!
SUPPORT. What no slot observes: a meaning, the end of a slot and the slot itself commute with another choice of the
accumulators and the sound timer (R16 to R18).
-/

namespace Sys2Proof.Machine

/-- The machine with its accumulators and sound timer at other values. -/
def State.retime (a b : BitVec 32) (snd : Byte) (s : State) : State :=
  { s with delayAccumulator := a, instructionAccumulator := b, soundTimer := snd }

@[simp] theorem State.retime_isWaitingForKey (a b : BitVec 32) (snd : Byte) (s : State) :
    (s.retime a b snd).isWaitingForKey = s.isWaitingForKey := rfl
@[simp] theorem State.retime_keyEdges (a b : BitVec 32) (snd : Byte) (s : State) :
    (s.retime a b snd).keyEdges = s.keyEdges := rfl

/-- `f` on the next state of an answer; a fault or a refusal stays. -/
def mapNext (f : State → State) : Answer → Answer
  | .next s => .next (f s)
  | .fault c => .fault c
  | .refused r => .refused r

/-- A function that commutes with both branches commutes with the choice. -/
theorem ite_eq_apply {α β : Type} {f : α → β} {p : Prop} [Decidable p] {x y : α} {x' y' : β} (hx : x' = f x)
    (hy : y' = f y) : (if p then x' else y') = f (if p then x else y) := by
  rw [hx, hy, apply_ite f]

/-! ## The shared operations -/

theorem orRaise_retime {α : Type} (a b : BitVec 32) (snd : Byte) (r : Except Fault α) (s : State) {k k' : α → Answer}
    (hk : ∀ x, k' x = mapNext (State.retime a b snd) (k x)) :
    orRaise r (s.retime a b snd) k' = mapNext (State.retime a b snd) (orRaise r s k) := by
  cases r with
  | ok x => exact hk x
  | error c => rfl

theorem jumpTo_retime (a b : BitVec 32) (snd : Byte) (t : Word) (s : State) :
    jumpTo t (s.retime a b snd) = mapNext (State.retime a b snd) (jumpTo t s) :=
  orRaise_retime a b snd _ s fun _ => rfl

theorem skipIf_retime (a b : BitVec 32) (snd : Byte) (cond : Bool) (s : State) :
    skipIf cond (s.retime a b snd) = mapNext (State.retime a b snd) (skipIf cond s) := by
  cases cond <;> rfl

theorem storeAtIndex_retime (a b : BitVec 32) (snd : Byte) (bytes : List Byte) (s : State) :
    storeAtIndex bytes (s.retime a b snd) = mapNext (State.retime a b snd) (storeAtIndex bytes s) :=
  orRaise_retime a b snd (memWrite s.index bytes s) s fun _ => rfl

/-! ## The instructions with a check or a branch of their own -/

theorem execRet_retime (a b : BitVec 32) (snd : Byte) (s : State) :
    execRet (s.retime a b snd) = mapNext (State.retime a b snd) (execRet s) :=
  ite_eq_apply rfl (orRaise_retime a b snd (checkJump (returnTarget s)) s fun _ => rfl)

theorem execCall_retime (a b : BitVec 32) (snd : Byte) (nnn : BitVec 12) (s : State) :
    execCall nnn (s.retime a b snd) = mapNext (State.retime a b snd) (execCall nnn s) :=
  ite_eq_apply rfl (orRaise_retime a b snd (checkJump (addressOf nnn)) s fun _ => rfl)

theorem execLdf_retime (a b : BitVec 32) (snd : Byte) (x : Reg) (s : State) :
    execLdf x (s.retime a b snd) = mapNext (State.retime a b snd) (execLdf x s) := by
  unfold execLdf
  by_cases h : (s.reg x).toNat < 16
  · rw [dif_pos h, dif_pos (show ((s.retime a b snd).reg x).toNat < 16 from h)]; rfl
  · rw [dif_neg h, dif_neg (show ¬ ((s.retime a b snd).reg x).toNat < 16 from h)]; rfl

theorem execSknp_retime (a b : BitVec 32) (snd : Byte) (x : Reg) (s : State) :
    execSknp x (s.retime a b snd) = mapNext (State.retime a b snd) (execSknp x s) :=
  orRaise_retime a b snd (keyNumber (s.reg x)) s fun _ =>
    congrArg Host.Outcome.next (ite_eq_apply (f := State.retime a b snd) rfl rfl)

theorem execLdk_retime (a b : BitVec 32) (snd : Byte) (x : Reg) (s : State) :
    execLdk x (s.retime a b snd) = mapNext (State.retime a b snd) (execLdk x s) := by
  simp only [execLdk, State.retime_isWaitingForKey, State.retime_keyEdges]
  refine ite_eq_apply ?_ rfl
  cases lowestKey s.keyEdges <;> rfl

/-! ## Meanings and slots -/

/-- Every instruction but `LDST` reads and writes past the accumulators and the sound timer. -/
theorem exec_retime (a b : BitVec 32) (snd : Byte) {i : Instr} (hi : ∀ x, i ≠ .ldst x) (s : State) :
    exec i (s.retime a b snd) = mapNext (State.retime a b snd) (exec i s) := by
  cases i with
  | ldst x => exact absurd rfl (hi x)
  | ret => exact execRet_retime a b snd s
  | call nnn => exact execCall_retime a b snd nnn s
  | jp nnn => exact jumpTo_retime a b snd (addressOf nnn) s
  | jp2 nnn => exact jumpTo_retime a b snd (offsetTarget nnn s) s
  | se x kk => exact skipIf_retime a b snd (s.reg x == kk) s
  | sne x kk => exact skipIf_retime a b snd (s.reg x != kk) s
  | se2 x y => exact skipIf_retime a b snd (s.reg x == s.reg y) s
  | sne2 x y => exact skipIf_retime a b snd (s.reg x != s.reg y) s
  | drw x y n => exact orRaise_retime a b snd (memRead s.index n.toNat s) s fun _ => rfl
  | skp x =>
    exact orRaise_retime a b snd (keyNumber (s.reg x)) s fun _ => skipIf_retime a b snd (s.keyDown (s.reg x)) s
  | sknp x => exact execSknp_retime a b snd x s
  | ldk x => exact execLdk_retime a b snd x s
  | addi x => exact ite_eq_apply rfl rfl
  | ldf x => exact execLdf_retime a b snd x s
  | ldb x => exact storeAtIndex_retime a b snd (decimalDigits (s.reg x)) s
  | ldai x => exact storeAtIndex_retime a b snd (s.regsUpTo x) s
  | ldm x => exact orRaise_retime a b snd (memRead s.index (x.val + 1) s) s fun _ => rfl
  | _ => rfl

/-- The sound timer after an instruction is the other machine's or, after `LDST`, the same in both. -/
theorem exec_retime_next (a b : BitVec 32) (snd : Byte) {i : Instr} {s t : State} (h : exec i s = .next t) :
    ∃ snd', exec i (s.retime a b snd) = .next (t.retime a b snd') ∧ (snd' = t.soundTimer ∨ snd' = snd) := by
  by_cases hi : ∃ x, i = .ldst x
  · obtain ⟨x, rfl⟩ := hi
    cases h
    exact ⟨s.reg x, rfl, .inl rfl⟩
  · exact ⟨snd, by rw [exec_retime a b snd (not_exists.1 hi), h, mapNext], .inr rfl⟩

theorem advance_retime (a b : BitVec 32) (snd : Byte) (pc : Word) (s : State) :
    advance pc (s.retime a b snd) = (advance pc s).retime a b snd :=
  ite_eq_apply (f := State.retime a b snd) rfl rfl

theorem postExecute_retime (a b : BitVec 32) (snd : Byte) (pc : Word) (s : State) :
    postExecute pc (s.retime a b snd) = (postExecute pc s).retime a b snd :=
  ite_eq_apply (f := State.retime a b snd) rfl (congrArg State.snapshot (advance_retime a b snd pc s))

@[simp] theorem postExecute_soundTimer (pc : Word) (s : State) : (postExecute pc s).soundTimer = s.soundTimer := by
  unfold postExecute advance
  split
  · rfl
  · split <;> rfl

/-- A slot whose fetch or decode fails is the raise of its cause (R60, R62). -/
theorem step_of_fetch_error {s : State} {c : Fault} (hf : s.fault = none) (hpc : s.pc.toNat % 2 = 0)
    (hc : fetchInstr s = .error c) : step s = .next (s.halt c) := by
  rw [step, runSlot, hf]
  simp only [hc, orRaise_error]
  rw [if_neg (by omega)]

/-- Settles O59: fetch and decode read past the retimed fields, and so do the meaning and the end of the slot. -/
theorem slotsIgnoreAccumulatorsAndSound : Obligations.SlotsIgnoreAccumulatorsAndSound := by
  intro s t a b snd h
  rcases step_next h with ⟨c, hf, hpc, hc, rfl⟩ | ⟨i, u, hf, hu, rfl⟩
  · exact ⟨(s.halt c).retime a b snd, step_of_fetch_error (s := s.retime a b snd) hf hpc hc, rfl, .inr rfl⟩
  · obtain ⟨snd', hu', hsnd⟩ := exec_retime_next a b snd hu
    refine ⟨(postExecute s.pc u).retime a b snd', ?_, rfl, by rwa [postExecute_soundTimer]⟩
    have hstep := step_of_fetches (s := s.retime a b snd) hf
    rw [hu', finishSlot, postExecute_retime] at hstep
    exact hstep

end Sys2Proof.Machine

/-!
SUPPORT. The state after reset (R27, R170).
-/

namespace Sys2Proof.Machine

/-- Inside the font an address reads as its glyph byte (R171). -/
theorem resetByte_glyph {a : Nat} (h : a < glyphBytes.length) : resetByte a = glyphBytes[a] :=
  (List.getElem_eq_getD 0).symm

/-- Past the font an address reads as zero. -/
theorem resetByte_past_glyphs {a : Nat} (h : 0x50 ≤ a) : resetByte a = 0 :=
  List.getD_eq_default glyphBytes 0 h

theorem toNat_glyphTableOffset (d : Fin 16) : (glyphTableOffset d).toNat = 5 * d.val := by
  have := d.isLt
  rw [glyphTableOffset, BitVec.toNat_ofNat]
  omega

/-- Settles O54: memory by what an unlisted address reads as, the display by the dark surface, the rest by `reset`. -/
theorem resetLeavesTheStatedValues : Obligations.ResetLeavesTheStatedValues := by
  have hreg : ∀ r, State.reset.reg r = 0 := fun r => Vector.getElem_replicate r.isLt
  have hstack : ∀ k, (h : k < 16) → State.reset.stack[k] = 0 := fun _ hk => Vector.getElem_replicate hk
  exact ⟨rfl, rfl, fun _ h => resetByte_glyph h, fun _ h _ => resetByte_past_glyphs h, Display.readPixel_dark, hreg,
    rfl, hstack, rfl, rfl, rfl, rfl, rfl, rfl, rfl, rfl, rfl, rfl, toNat_glyphTableOffset, rfl, rfl⟩

end Sys2Proof.Machine

/-!
SUPPORT. Memory (spec 20_memory.md): the validator exactly (R31), the checked accesses (R33, R34), and which bytes an
instruction and a slot keep (R28, R39).
-/

namespace Sys2Proof.Machine

/-! ## The validator (R31) -/

/-- A range of at least one byte has a verdict: only size 0 raises. -/
theorem isValidRange_answers (base : Word) {size : Word} (usage : Usage) (h0 : size ≠ 0) :
    ∃ b, isValidRange base size usage = .ok b := by
  unfold isValidRange
  rw [if_neg h0]
  dsimp only
  split_ifs <;> exact ⟨_, rfl⟩

theorem checkRange_of_valid {base size : Word} {usage : Usage} (h : isValidRange base size usage = .ok true) :
    checkRange usage base size = .ok () := by
  rw [checkRange, h]

theorem checkRange_of_invalid {base size : Word} {usage : Usage} (h : isValidRange base size usage = .ok false) :
    checkRange usage base size = .error (.invalidMemoryRange usage base size) := by
  rw [checkRange, h]

/-- The verdict of the validator, read off what its check answers. -/
theorem isValidRange_eq (base : Word) {size : Word} (usage : Usage) (h0 : size ≠ 0) :
    isValidRange base size usage = .ok (decide (RangeOk usage base.toNat size.toNat)) := by
  obtain ⟨hpass, hfail⟩ := checkRange_eq usage base size h0
  obtain ⟨b, hb⟩ := isValidRange_answers base usage h0
  cases b with
  | false =>
    have hbad : ¬ RangeOk usage base.toNat size.toNat := fun hr =>
      nomatch (checkRange_of_invalid hb).symm.trans (hpass hr)
    rw [hb, decide_eq_false hbad]
  | true =>
    have hgood : RangeOk usage base.toNat size.toNat := by
      by_contra hr
      cases (checkRange_of_valid hb).symm.trans (hfail hr)
    rw [hb, decide_eq_true hgood]

/-- Settles O42: size 0 by computation, every other size by the validator's verdict. -/
theorem validatorAcceptsExactlyTheMap : Obligations.ValidatorAcceptsExactlyTheMap := by
  intro base size usage
  refine ⟨?_, fun h0 hend hlow => ?_, fun h0 hbad => ?_⟩
  · rintro rfl
    rfl
  · rw [isValidRange_eq base usage h0, decide_eq_true ⟨hend, hlow⟩]
  · rw [isValidRange_eq base usage h0, decide_eq_false hbad]

/-! ## The checked accesses (R33, R34) -/

/-- Settles O43: `memRead` answers as its range check does; the bytes it gives are those of `Memory.readBytes`. -/
theorem checkedReadGivesTheBytes : Obligations.CheckedReadGivesTheBytes := by
  intro s addr n _
  refine ⟨?_, fun hbad => ?_, fun hvalid => ⟨s.memory.readBytes addr.toNat n, ?_, ?_, ?_⟩⟩
  · rintro rfl
    exact memRead_zero addr s
  · rw [memRead, checkRange_of_invalid hbad]
  · rw [memRead, checkRange_of_valid hvalid]
  · exact Memory.length_readBytes _ _ _
  · exact Memory.getElem_readBytes _ _ _

theorem memWrite_nil (addr : Word) (s : State) : memWrite addr [] s = .error .invalidRangeSize := rfl

/-- Settles O44: `memWrite` answers as its range check does. A range that passes lies inside memory, so every byte
stored there is read back. -/
theorem checkedWriteStoresTheBytes : Obligations.CheckedWriteStoresTheBytes := by
  intro s addr bytes hwf hlen
  refine ⟨fun hnil => ?_, fun hbad => ?_, fun hvalid => ?_⟩
  · rw [List.eq_nil_of_length_eq_zero hnil, memWrite_nil]
  · rw [memWrite, checkRange_of_invalid hbad]
  · have hpass := checkRange_of_valid hvalid
    obtain ⟨-, hend, -⟩ := checkRange_ok hlen hpass
    refine ⟨s.memory.writeBytes addr.toNat bytes, by rw [memWrite, hpass], fun k hk => ?_, fun a ha => ?_⟩
    · exact Memory.readByte_writeBytes_inside hwf bytes hend hk
    · exact Memory.readByte_writeBytes_outside s.memory bytes ha

/-! ## The bytes an instruction and a slot keep (R28, R39) -/

/-- A store changes no byte outside those it stores from `index` up; every other effect keeps the whole memory. -/
theorem Effect.readByte_outside {i : Instr} {s t : State} (e : Effect i s t) {a : Nat}
    (ha : a < s.index.toNat ∨ s.index.toNat + storedBytes i ≤ a) : t.memory.readByte a = s.memory.readByte a := by
  cases e with
  | store bytes hlen => exact Memory.readByte_writeBytes_outside s.memory bytes (by rwa [hlen])
  | _ => rfl

/-- Settles O39: the memory frame of `Effect`. -/
theorem memoryOutsideTheStoreIsKept : Obligations.MemoryOutsideTheStoreIsKept :=
  fun _ _ _ _ h ha => (effect_of_exec h).readByte_outside ha

@[simp] theorem postExecute_memory (a : Word) (s : State) : (postExecute a s).memory = s.memory := by
  unfold postExecute
  split
  · rfl
  · rw [State.snapshot_memory, advance_memory]

/-- Settles O58: a raise in fetch or decode writes no memory, an instruction stores at 0x200 or above (R31), and the end
of the slot writes no memory. -/
theorem reservedMemoryIsNeverWritten : Obligations.ReservedMemoryIsNeverWritten := by
  intro s t a ha h
  rcases step_next h with ⟨c, -, -, -, rfl⟩ | ⟨i, u, -, hu, rfl⟩
  · rw [State.halt_memory]
  · rw [postExecute_memory, (effect_of_exec hu).readByte_reserved ha]

end Sys2Proof.Machine

/-!
SUPPORT. Decoding and encoding (spec 30_encoding.md R47 to R55). `DecodeAnswer` says once what the decode algorithm can
answer, and each family of R50 is shown to answer within it; the statements on words and on the slot are read off it.
-/

namespace Sys2Proof.Machine

/-! ## Decoding inverts encoding (R55) -/

/-- The two operands of `SYS` that no word spells (R50). -/
theorem wellFormed_sys (nnn : BitVec 12) : (Instr.sys nnn).WellFormed ↔ nnn ≠ 0x0E0#12 ∧ nnn ≠ 0x0EE#12 := by
  simp [Instr.WellFormed, Instr.wellFormed]

/-- A word with an address field other than those of the two fixed words of R50 is neither of them. -/
theorem decode0_packNNN {nnn : BitVec 12} (h : (Instr.sys nnn).WellFormed) :
    decode0 (packNNN 0x0#4 nnn) = .sys nnn := by
  have differs {c : Word} (hc : nnn ≠ fieldNNN c) : packNNN 0x0#4 nnn ≠ c :=
    fun hw => hc (by rw [← hw, (fields_packNNN _ _).2])
  obtain ⟨hcls, hret⟩ := (wellFormed_sys nnn).1 h
  rw [decode0, if_neg (differs (c := 0x00E0#16) hcls),
    if_neg (differs (c := 0x00EE#16) hret), (fields_packNNN _ _).2]

/-- The cases are the families of R50: the two fixed words, `SYS`, the rows that the top nibble alone selects, and those
that the last nibble or the last byte selects. -/
theorem decodeWord_encodeWord {i : Instr} (h : i.WellFormed) : decodeWord (encodeWord i) = .ok i := by
  cases i with
  | cls | ret => rfl
  | sys nnn => simp [encodeWord, decodeWord, decode0_packNNN h]
  | jp _ | call _ | ldi _ | jp2 _ | se _ _ | sne _ _ | ld _ _ | add _ _ | rnd _ _ | drw _ _ _ | se2 _ _ | sne2 _ _ =>
    simp [encodeWord, decodeWord]
  | ld2 _ _ | or _ _ | and _ _ | xor _ _ | add2 _ _ | sub _ _ | subn _ _ | shr _ _ | shl _ _ =>
    simp [encodeWord, decodeWord, decode8]
  | skp _ | sknp _ => simp [encodeWord, decodeWord, decodeE]
  | ldt _ | ldk _ | lddt _ | ldst _ | addi _ | ldf _ | ldb _ | ldai _ | ldm _ =>
    simp [encodeWord, decodeWord, decodeF]

/-- The bytes of a word that decodes, at the head of a string, decode to its instruction and the rest (R36, R45). -/
theorem decodeBytes_bytesOfWord_append {w : Word} {i : Instr} (h : decodeWord w = .ok i) (rest : List Byte) :
    decodeBytes (bytesOfWord w ++ rest) = .ok (i, rest) := by
  simp [bytesOfWord, decodeBytes, wordOfBytes_bytesOfWord, h]

/-- Settles O2: the round trip of words, family by family, carried to byte strings. -/
theorem decodeInvertsEncode : Obligations.DecodeInvertsEncode :=
  fun _ h => ⟨decodeWord_encodeWord h, decodeBytes_bytesOfWord_append (decodeWord_encodeWord h)⟩

/-! ## What the decode algorithm can answer (R50, R51) -/

/-- Everything `decodeWord w` can answer: an instruction that some word spells, whose word is `w`, and only for a word
outside the list of R51; or the unknown opcode `w`, and only for a word of that list. -/
inductive DecodeAnswer (w : Word) : Except DecodeError Instr → Prop
  | legal {i : Instr} (henc : encodeWord i = w) (hwf : i.WellFormed) (hlegal : ¬ illegalWord w) :
      DecodeAnswer w (.ok i)
  | illegal (h : illegalWord w) : DecodeAnswer w (.error (.unknownOpcode w))

/-- The list of R51 in the fields of R46. -/
theorem illegalWord_iff_fields (w : Word) : illegalWord w ↔
    ((fieldOp w).toNat = 0x5 ∧ fieldN w ≠ 0) ∨ ((fieldOp w).toNat = 0x9 ∧ fieldN w ≠ 0) ∨
    ((fieldOp w).toNat = 0x8 ∧ (fieldN w).toNat ∈ [0x8, 0x9, 0xA, 0xB, 0xC, 0xD, 0xF]) ∨
    ((fieldOp w).toNat = 0xE ∧ fieldKK w ∉ [0x9E, 0xA1]) ∨
    ((fieldOp w).toNat = 0xF ∧ fieldKK w ∉ [0x07, 0x0A, 0x15, 0x18, 0x1E, 0x29, 0x33, 0x55, 0x65]) := by
  have hop : (fieldOp w).toNat = w.toNat / 0x1000 := by
    rw [toNat_fieldOp]
    have := w.isLt
    omega
  simp [illegalWord, hop, ← BitVec.toNat_inj, toNat_fieldN, toNat_fieldKK]

/-- A row outside the families 5, 8, 9, E and F: no word of its family is illegal. -/
theorem DecodeAnswer.of_op {w : Word} {i : Instr} {op : Nat} (hop : (fieldOp w).toNat = op)
    (henc : encodeWord i = w) (hwf : i.WellFormed) (hrow : op ∉ [0x5, 0x8, 0x9, 0xE, 0xF]) :
    DecodeAnswer w (.ok i) := by
  refine .legal henc hwf ?_
  simp only [List.mem_cons, List.not_mem_nil, or_false, not_or] at hrow
  simp [illegalWord_iff_fields, hop, hrow]

/-- Top nibble 0: `SYS` is left the words other than the two fixed ones. -/
theorem decode0_answer {w : Word} (hop : (fieldOp w).toNat = 0x0) : DecodeAnswer w (.ok (decode0 w)) := by
  have spelled {nnn : BitVec 12} (h : fieldNNN w = nnn) : packNNN 0x0#4 nnn = w := h ▸ packNNN_fields hop
  unfold decode0
  split_ifs with hcls hret
  · exact .of_op hop hcls.symm rfl (by decide)
  · exact .of_op hop hret.symm rfl (by decide)
  · have hwf := (wellFormed_sys _).2 ⟨fun h => hcls (spelled h).symm, fun h => hret (spelled h).symm⟩
    exact .of_op hop (spelled rfl) hwf (by decide)

/-- Top nibble 5 or 9: the last nibble is 0 or the word is illegal (R52). -/
theorem registerSkip_answer {w : Word} {op : BitVec 4} {i : Instr} (hop : (fieldOp w).toNat = op.toNat)
    (hrow : op = 0x5#4 ∨ op = 0x9#4) (hi : encodeWord i = packXYN op (fieldX w) (fieldY w) 0x0#4)
    (hwf : i.WellFormed) :
    DecodeAnswer w (if fieldN w = 0#4 then .ok i else .error (.unknownOpcode w)) := by
  have hiff : illegalWord w ↔ fieldN w ≠ 0 := by
    rcases hrow with rfl | rfl <;> simp [illegalWord_iff_fields, hop]
  split_ifs with hn
  · exact .legal (hi.trans (packXYN_fields hop hn)) hwf (by simp [hiff, hn])
  · exact .illegal (hiff.2 hn)

/-- Top nibble 8: nine of the last nibbles select a row, the other seven are listed in R51. -/
theorem decode8_answer {w : Word} (hop : (fieldOp w).toNat = 0x8) : DecodeAnswer w (decode8 w) := by
  have hiff : illegalWord w ↔ (fieldN w).toNat ∈ [0x8, 0x9, 0xA, 0xB, 0xC, 0xD, 0xF] := by
    simp [illegalWord_iff_fields, hop]
  have row {n : BitVec 4} {i : Instr} (hi : encodeWord i = packXYN 0x8#4 (fieldX w) (fieldY w) n)
      (hn : (fieldN w).toNat = n.toNat) (hwf : i.WellFormed)
      (hlegal : n.toNat ∉ [0x8, 0x9, 0xA, 0xB, 0xC, 0xD, 0xF]) : DecodeAnswer w (.ok i) :=
    .legal (hi.trans (packXYN_fields hop (BitVec.eq_of_toNat_eq hn))) hwf (by rwa [hiff, hn])
  unfold decode8
  split
  case h_10 =>
    simp only [imp_false] at *
    have := (fieldN w).isLt
    refine .illegal (hiff.2 ?_)
    simp only [List.mem_cons, List.not_mem_nil, or_false]
    omega
  all_goals
    rename_i hn
    exact row rfl hn rfl (by decide)

/-- Top nibble E: two of the last bytes select a row. -/
theorem decodeE_answer {w : Word} (hop : (fieldOp w).toNat = 0xE) : DecodeAnswer w (decodeE w) := by
  have hiff : illegalWord w ↔ fieldKK w ∉ [0x9E, 0xA1] := by simp [illegalWord_iff_fields, hop]
  unfold decodeE
  split_ifs with hskp hsknp
  · exact .legal (packXKK_fields hop hskp) rfl (by simp [hiff, hskp])
  · exact .legal (packXKK_fields hop hsknp) rfl (by simp [hiff, hsknp])
  · exact .illegal (hiff.2 (by simp [hskp, hsknp]))

/-- Top nibble F: nine of the last bytes select a row. -/
theorem decodeF_answer {w : Word} (hop : (fieldOp w).toNat = 0xF) : DecodeAnswer w (decodeF w) := by
  have hiff : illegalWord w ↔ fieldKK w ∉ [0x07, 0x0A, 0x15, 0x18, 0x1E, 0x29, 0x33, 0x55, 0x65] := by
    simp [illegalWord_iff_fields, hop]
  unfold decodeF
  split_ifs
  case neg => exact .illegal (hiff.2 (by simp [*]))
  all_goals
    rename_i hkk
    exact .legal (packXKK_fields hop hkk) rfl (by simp [hiff, hkk])

/-- The families of R50 together. The cases number the rows of `decodeWord`, top nibble 0 as `h_1` up to F as `h_16`. -/
theorem decodeWord_answer (w : Word) : DecodeAnswer w (decodeWord w) := by
  unfold decodeWord
  split
  case h_1 hop => exact decode0_answer hop
  case h_6 hop => exact registerSkip_answer (op := 0x5#4) hop (.inl rfl) rfl rfl
  case h_9 hop => exact decode8_answer hop
  case h_10 hop => exact registerSkip_answer (op := 0x9#4) hop (.inr rfl) rfl rfl
  case h_15 hop => exact decodeE_answer hop
  case h_16 hop => exact decodeF_answer hop
  case h_17 =>
    simp only [imp_false] at *
    have := (fieldOp w).isLt
    omega
  case h_2 hop | h_3 hop | h_11 hop | h_12 hop => exact .of_op hop (packNNN_fields hop) rfl (by decide)
  case h_14 hop => exact .of_op hop (packXYN_fields hop rfl) rfl (by decide)
  all_goals
    rename_i hop
    exact .of_op hop (packXKK_fields hop rfl) rfl (by decide)

theorem DecodeAnswer.encodes {w : Word} {i : Instr} (a : DecodeAnswer w (.ok i)) :
    encodeWord i = w ∧ i.WellFormed := by
  cases a with
  | legal henc hwf _ => exact ⟨henc, hwf⟩

theorem DecodeAnswer.eq_error {w : Word} {r : Except DecodeError Instr} (a : DecodeAnswer w r) (h : illegalWord w) :
    r = .error (.unknownOpcode w) := by
  cases a with
  | legal _ _ hlegal => exact absurd h hlegal
  | illegal _ => rfl

theorem DecodeAnswer.exists_ok {w : Word} {r : Except DecodeError Instr} (a : DecodeAnswer w r)
    (h : ¬ illegalWord w) : ∃ i, r = .ok i := by
  cases a with
  | legal => exact ⟨_, rfl⟩
  | illegal hill => exact absurd hill h

/-- Settles O3: the legal answers of the decode algorithm. -/
theorem encodeInvertsDecode : Obligations.EncodeInvertsDecode :=
  fun w _ h => (h ▸ decodeWord_answer w).encodes

/-- Settles O4: the two kinds of answer exclude each other. -/
theorem illegalWordsAreExactlyTheListed : Obligations.IllegalWordsAreExactlyTheListed :=
  fun w => ⟨(decodeWord_answer w).eq_error, (decodeWord_answer w).exists_ok⟩

/-! ## The slot of an illegal word (R51, R62) -/

theorem fetchInstr_of_illegalWord {s : State} (hpc : Executable s.pc) (h : illegalWord (codeWord s s.pc.toNat)) :
    fetchInstr s = .error (.unknownOpcode (codeWord s s.pc.toNat)) := by
  obtain ⟨-, hlo, hhi⟩ := hpc
  simp [fetchInstr, fetchWord_ok hlo hhi, decodeSlot, (decodeWord_answer _).eq_error h]

/-- Settles O7: the failed decode is the raise of its cause. -/
theorem unknownWordHalts : Obligations.UnknownWordHalts :=
  fun _ hf hpc h => step_of_fetch_error hf hpc.1 (fetchInstr_of_illegalWord hpc h)

end Sys2Proof.Machine

/-!
SUPPORT. The instruction slot (spec 40_instruction_cycle.md R60 to R71): a meaning always answers, what the slot adds to
its answer, `pc` after the slot by the table of R68, and slots of a call as steps of the core. `landing` says the
advance of every instruction but `LDK`, so the table is read off the `pc` each meaning leaves.
-/

namespace Sys2Proof.Machine

/-! ## Fetching where no instruction can be (R35, R37, R61) -/

theorem step_of_odd_pc {s : State} (hf : s.fault = none) (hpc : s.pc.toNat % 2 = 1) :
    step s = .refused .oddProgramCounter := by
  rw [step, runSlot, hf]
  exact if_pos hpc

theorem fetchInstr_outside_code {s : State} (h : s.pc.toNat < 0x200 ∨ 0xFFE < s.pc.toNat) :
    fetchInstr s = .error (.invalidMemoryRange .execute s.pc 2) := by
  rw [fetchInstr, fetchWord_fail h]

/-- Settles O6: a fetch that fails is the raise of its cause; an odd `pc` is tested before the fetch. -/
theorem fetchOutsideCodeHalts : Obligations.FetchOutsideCodeHalts :=
  fun _ hf => ⟨fun heven hout => step_of_fetch_error hf heven (fetchInstr_outside_code hout), step_of_odd_pc hf⟩

/-! ## Every meaning answers a next state (R63) -/

theorem orRaise_answers {α : Type} (r : Except Fault α) (s : State) {k : α → Answer} (hk : ∀ a, ∃ t, k a = .next t) :
    ∃ t, orRaise r s k = .next t := by
  cases r with
  | ok a => exact hk a
  | error c => exact ⟨s.halt c, rfl⟩

theorem ite_answers {p : Prop} [Decidable p] {a b : Answer} (ha : ∃ t, a = .next t) (hb : ∃ t, b = .next t) :
    ∃ t, (if p then a else b) = .next t := by
  split
  · exact ha
  · exact hb

theorem jumpTo_answers (a : Word) (s : State) : ∃ t, jumpTo a s = .next t :=
  orRaise_answers _ s fun _ => ⟨_, rfl⟩

theorem storeAtIndex_answers (bytes : List Byte) (s : State) : ∃ t, storeAtIndex bytes s = .next t :=
  orRaise_answers _ s fun _ => ⟨_, rfl⟩

theorem execRet_answers (s : State) : ∃ t, execRet s = .next t :=
  ite_answers ⟨_, rfl⟩ (orRaise_answers _ s fun _ => ⟨_, rfl⟩)

theorem execCall_answers (nnn : BitVec 12) (s : State) : ∃ t, execCall nnn s = .next t :=
  ite_answers ⟨_, rfl⟩ (orRaise_answers _ s fun _ => ⟨_, rfl⟩)

theorem execLdf_answers (x : Reg) (s : State) : ∃ t, execLdf x s = .next t := by
  unfold execLdf
  split <;> exact ⟨_, rfl⟩

theorem execLdk_answers (x : Reg) (s : State) : ∃ t, execLdk x s = .next t := by
  refine ite_answers ?_ ⟨_, rfl⟩
  cases lowestKey s.keyEdges <;> exact ⟨_, rfl⟩

/-- No meaning stops without a next state: a failed check is a raise, which is one. -/
theorem exec_answers (i : Instr) (s : State) : ∃ t, exec i s = .next t := by
  cases i with
  | ret => exact execRet_answers s
  | jp nnn => exact jumpTo_answers (addressOf nnn) s
  | call nnn => exact execCall_answers nnn s
  | jp2 nnn => exact jumpTo_answers (offsetTarget nnn s) s
  | drw x y n => exact orRaise_answers (memRead s.index n.toNat s) s fun _ => ⟨_, rfl⟩
  | skp x => exact orRaise_answers (keyNumber (s.reg x)) s fun _ => ⟨_, rfl⟩
  | sknp x => exact orRaise_answers (keyNumber (s.reg x)) s fun _ => ⟨_, rfl⟩
  | ldk x => exact execLdk_answers x s
  | addi x => exact ite_answers ⟨_, rfl⟩ ⟨_, rfl⟩
  | ldf x => exact execLdf_answers x s
  | ldb x => exact storeAtIndex_answers (decimalDigits (s.reg x)) s
  | ldai x => exact storeAtIndex_answers (s.regsUpTo x) s
  | ldm x => exact orRaise_answers (memRead s.index (x.val + 1) s) s fun _ => ⟨_, rfl⟩
  | _ => exact ⟨_, rfl⟩

/-! ## The end of the slot (R65 to R67) -/

/-- The advance writes `pc` alone. -/
theorem advance_eq_setPc (a : Word) (s : State) : advance a s = s.setPc (advance a s).pc := by
  unfold advance
  split <;> rfl

@[simp] theorem advance_keyState (a : Word) (s : State) : (advance a s).keyState = s.keyState := by
  rw [advance_eq_setPc, State.setPc_keyState]

/-- The state that the advance and the snapshot leave, written out. -/
theorem snapshot_advance (a : Word) (s : State) :
    (advance a s).snapshot = { s with
      pc := if s.pc = a ∧ s.isWaitingForKey = false then s.pc + 2 else s.pc
      keyStatePrev := s.keyState
      loadable := false } := by
  rw [advance_eq_setPc, advance_pc]
  rfl

/-- The slot of an instruction that answered `u`. -/
theorem step_of_exec {s u : State} {i : Instr} (hf : Fetches s i) (hu : exec i s = .next u) :
    step s = .next (postExecute s.pc u) := by
  rw [step_of_fetches hf, hu, finishSlot]

/-- Settles O5: the meaning answers, and the end of the slot is skipped exactly when it raised. -/
theorem stepRunsTheDecodedInstruction : Obligations.StepRunsTheDecodedInstruction := by
  intro s i hf
  obtain ⟨t, ht⟩ := exec_answers i s
  refine ⟨t, ht, fun hraised => ?_, fun hran => ?_⟩
  · obtain ⟨c, hc⟩ := Option.ne_none_iff_exists'.1 hraised
    rw [step_of_exec hf ht, postExecute_halted hc]
  · rw [step_of_exec hf ht, postExecute_running hran, snapshot_advance]

/-- A slot that ends without a fault: its instruction did not raise, and the end of the slot followed. -/
theorem step_running {s t : State} (h : step s = .next t) (ht : t.fault = none) :
    ∃ i u, Fetches s i ∧ exec i s = .next u ∧ u.fault = none ∧ t = (advance s.pc u).snapshot := by
  rcases step_next h with ⟨c, -, -, -, rfl⟩ | ⟨i, u, hf, hu, rfl⟩
  · cases ht
  · obtain ⟨hran, hend⟩ := postExecute_fault_none ht
    exact ⟨i, u, hf, hu, hran, hend⟩

/-! ## The key snapshot (R67) -/

theorem soundQuirk_keyState (s : State) : (soundQuirk s).keyState = s.keyState := by
  unfold soundQuirk
  split <;> rfl

theorem soundQuirk_keyStatePrev (s : State) : (soundQuirk s).keyStatePrev = s.keyStatePrev := by
  unfold soundQuirk
  split <;> rfl

/-- Before its first slot a call does not touch the keys. -/
theorem callPrologue_keys (d : BitVec 32) (s : State) :
    (callPrologue d s).keyStatePrev = s.keyStatePrev ∧ (callPrologue d s).keyState = s.keyState :=
  ⟨soundQuirk_keyStatePrev (delayDecay d s), soundQuirk_keyState (delayDecay d s)⟩

/-- A call without a slot leaves a halted machine as it is, and runs the prologue of any other. -/
theorem stepCall_no_slot {s t : State} {d : BitVec 32} (h0 : slotCount d s = 0) (h : stepCall d s = .next t) :
    t = s ∨ t = callPrologue d s := by
  unfold stepCall at h
  split at h
  · cases h
    exact .inl rfl
  · split at h
    · cases h
    · rw [h0] at h
      cases h
      exact .inr rfl

/-- Settles O11: the end of a slot takes the snapshot, and neither outcome of a call without a slot does. -/
theorem keySnapshotAfterEverySlot : Obligations.KeySnapshotAfterEverySlot := by
  constructor
  · intro s t h ht
    obtain ⟨i, u, -, hu, -, rfl⟩ := step_running h ht
    have hkeys : (advance s.pc u).keyState = s.keyState :=
      (advance_keyState s.pc u).trans (effect_of_exec hu).keyState_eq
    exact ⟨hkeys, hkeys⟩
  · intro s t d h0 h
    rcases stepCall_no_slot h0 h with rfl | rfl
    · exact ⟨rfl, rfl⟩
    · exact callPrologue_keys d s

/-! ## Slots of a call and steps of the core (R60, R71) -/

/-- Slots that end without a fault go through a first slot that did, too. -/
theorem runSlots_succ_running {k : Nat} {s t : State} (h : runSlots (k + 1) s = .next t) (ht : t.fault = none) :
    ∃ u, step s = .next u ∧ runSlots k u = .next t := by
  rw [runSlots] at h
  split at h
  · next u hu =>
    split at h
    · next hhalted =>
      cases h
      simp [State.halted, ht] at hhalted
    · exact ⟨u, hu, h⟩
  · cases h
  · cases h

/-- A run goes on from the state that its first step answers. -/
theorem core_run_succ {M : Host.Core} {k : Nat} {s u : M.State} (h : M.step s = .next u) :
    M.run (k + 1) s = M.run k u := by
  rw [Host.Core.run, h]

/-- Settles O49, by induction on the number of slots. -/
theorem slotsAreStepsOfTheCore : Obligations.SlotsAreStepsOfTheCore := by
  intro k
  induction k with
  | zero => exact fun _ _ h _ => h
  | succ k ih =>
    intro s t h ht
    obtain ⟨u, hu, hrest⟩ := runSlots_succ_running h ht
    exact (core_run_succ (M := Sys2Proof.core) hu).trans (ih u t hrest ht)

/-! ## The table of R68: the `pc` that a meaning leaves -/

/-- A check that did not raise has passed. -/
theorem orRaise_running {α : Type} {r : Except Fault α} {s t : State} {k : α → Answer}
    (h : orRaise r s k = .next t) (ht : t.fault = none) : ∃ a, r = .ok a ∧ k a = .next t := by
  rcases orRaise_next h with hpass | ⟨c, -, rfl⟩
  · exact hpass
  · cases ht

theorem jumpTo_pc {a : Word} {s t : State} (h : jumpTo a s = .next t) (ht : t.fault = none) : t.pc = a := by
  rcases jumpTo_next h with ⟨-, rfl⟩ | ⟨c, rfl⟩
  · rfl
  · cases ht

theorem execRet_pc {s t : State} (h : execRet s = .next t) (ht : t.fault = none) : t.pc = returnTarget s := by
  unfold execRet at h
  split at h
  · cases h
    cases ht
  · obtain ⟨_, -, hk⟩ := orRaise_running h ht
    cases hk
    rfl

theorem execCall_pc {nnn : BitVec 12} {s t : State} (h : execCall nnn s = .next t) (ht : t.fault = none) :
    t.pc = addressOf nnn := by
  unfold execCall at h
  split at h
  · cases h
    cases ht
  · obtain ⟨_, -, hk⟩ := orRaise_running h ht
    cases hk
    rfl

/-- A skip lands where its condition says. -/
theorem skipIf_landing {b : Bool} {s t : State} {cond : Prop} [Decidable cond] (hb : b = true ↔ cond)
    (h : skipIf b s = .next t) : landing s.pc t.pc = skipping s.pc cond := by
  rcases skipIf_next h with ⟨hskip, rfl⟩ | ⟨hstay, rfl⟩
  · have hne : s.pc + 4 ≠ s.pc := by bv_omega
    rw [skipping, if_pos (hb.1 hskip), State.setPc_pc, landing, if_neg hne]
  · rw [skipping, if_neg (fun hc => nomatch (hb.2 hc).symm.trans hstay), landing, if_pos rfl]

/-- `SKNP` is a skip on the key being up, once the key number has passed. -/
theorem execSknp_skip {x : Reg} {s t : State} (h : execSknp x s = .next t) (ht : t.fault = none) :
    skipIf (!s.keyDown (s.reg x)) s = .next t := by
  obtain ⟨_, -, hk⟩ := orRaise_running h ht
  rw [← hk, skipIf]
  cases s.keyDown (s.reg x) <;> rfl

/-- `LDK` ends the wait when it was waiting and a key has gone down, and in no other case waits no more (R133). -/
theorem execLdk_waiting {x : Reg} {s t : State} (h : execLdk x s = .next t) :
    t.isWaitingForKey = false ↔ s.isWaitingForKey = true ∧ s.keyEdges ≠ 0 := by
  unfold execLdk at h
  split at h
  · next hw =>
    split at h
    · next k hk =>
      cases h
      have hedge : s.keyEdges ≠ 0 := fun h0 => nomatch (lowestKey_eq_none.2 h0).symm.trans hk
      exact ⟨fun _ => ⟨hw, hedge⟩, fun _ => rfl⟩
    · next hk =>
      cases h
      simp [hw, lowestKey_eq_none.1 hk]
  · next hw =>
    cases h
    simp [hw]

/-- While no key is awaited the advance is `landing`. -/
theorem advance_pc_landing (a : Word) {s : State} (hw : s.isWaitingForKey = false) :
    (advance a s).pc = landing a s.pc := by
  rw [advance_pc, landing]
  by_cases h : s.pc = a
  · rw [if_pos ⟨h, hw⟩, if_pos h, h]
  · rw [if_neg (fun hc => h hc.1), if_neg h]

/-- An instruction that leaves `pc` alone falls through. -/
theorem landing_of_kept {i : Instr} {s t : State} (h : exec i s = .next t) (hi : mayWritePc i = false) :
    landing s.pc t.pc = s.pc + 2 :=
  if_pos ((effect_of_exec h).pc_eq hi)

/-- The table for every instruction but `LDK`: it is where the meaning's `pc` lands. -/
theorem landing_of_exec {i : Instr} {s t : State} (h : exec i s = .next t) (ht : t.fault = none)
    (hi : ∀ x, i ≠ .ldk x) : landing s.pc t.pc = slotPc i s := by
  cases i with
  | ldk x => exact absurd rfl (hi x)
  | jp nnn => rw [slotPc, ofNat_eq_addressOf, jumpTo_pc h ht]
  | call nnn => rw [slotPc, ofNat_eq_addressOf, execCall_pc h ht]
  | jp2 nnn => rw [slotPc, ← offsetTarget_eq, jumpTo_pc h ht]
  | ret => rw [execRet_pc h ht]; rfl
  | se x kk => exact skipIf_landing beq_iff_eq h
  | sne x kk => exact skipIf_landing bne_iff_ne h
  | se2 x y => exact skipIf_landing beq_iff_eq h
  | sne2 x y => exact skipIf_landing bne_iff_ne h
  | skp x =>
    obtain ⟨_, -, hk⟩ := orRaise_running h ht
    exact skipIf_landing Iff.rfl hk
  | sknp x => exact skipIf_landing (Bool.not_eq_true' _).to_iff (execSknp_skip h ht)
  | _ => exact landing_of_kept h rfl

/-- The table for `LDK`: `pc` is held while the machine waits (R68, log 32). -/
theorem advance_pc_of_execLdk {x : Reg} {s t : State} (h : execLdk x s = .next t) :
    (advance s.pc t).pc = slotPc (.ldk x) s := by
  have hpc : t.pc = s.pc := (Effect.of_execLdk h).pc_eq rfl
  rw [advance_pc, hpc]
  exact if_congr ((and_iff_right rfl).trans (execLdk_waiting h)) rfl rfl

/-- Settles O10: `LDK` by its own row, and every other instruction runs while no key is awaited, so that the advance is
where its `pc` lands. -/
theorem slotPcFollowsTheTable : Obligations.SlotPcFollowsTheTable := by
  intro s i t hf hwait h ht
  obtain ⟨j, u, hj, hu, hran, rfl⟩ := step_running h ht
  obtain rfl := fetches_unique hf hj
  rw [State.snapshot_pc]
  by_cases hi : ∃ x, i = .ldk x
  · obtain ⟨x, rfl⟩ := hi
    exact advance_pc_of_execLdk hu
  · have hne : ∀ x, i ≠ .ldk x := not_exists.1 hi
    have hw : u.isWaitingForKey = false := by
      rw [(effect_of_exec hu).isWaitingForKey_eq hne]
      exact Bool.eq_false_iff.2 (mt hwait hi)
    rw [advance_pc_landing s.pc hw, landing_of_exec hu hran hne]

end Sys2Proof.Machine

/-!
SUPPORT. Control transfer (spec 41_control_flow.md R75 to R84): the words that the claims write by arithmetic decode,
what a meaning does after `CheckJump`, and the slots of a transfer and of a skip. `JP`, `JP2`, `CALL` and `RET` share the
three answers of the check, the four skips share one lemma.
-/

namespace Sys2Proof.Machine

/-! ## The words of the claims (R49) -/

theorem decodeWord_wordNNN {op : Nat} {nnn : BitVec 12} {i : Instr}
    (he : encodeWord i = packNNN (BitVec.ofNat 4 op) nnn) (hi : i.WellFormed) :
    decodeWord (wordNNN op nnn) = .ok i := by
  rw [wordNNN_eq, ← he, decodeWord_encodeWord hi]

theorem decodeWord_wordXKK {op : Nat} {x : Reg} {kk : Byte} {i : Instr}
    (he : encodeWord i = packXKK (BitVec.ofNat 4 op) x kk) (hi : i.WellFormed) :
    decodeWord (wordXKK op x kk.toNat) = .ok i := by
  rw [wordXKK_eq op x kk.toNat kk.isLt, BitVec.ofNat_toNat, BitVec.setWidth_eq, ← he, decodeWord_encodeWord hi]

theorem decodeWord_wordXYN {op n : Nat} {x y : Reg} {i : Instr} (hn : n < 16)
    (he : encodeWord i = packXYN (BitVec.ofNat 4 op) x y (BitVec.ofNat 4 n)) (hi : i.WellFormed) :
    decodeWord (wordXYN op x y n) = .ok i := by
  rw [wordXYN_eq op x y n hn, ← he, decodeWord_encodeWord hi]

theorem decodeWord_ret : decodeWord 0x00EE#16 = .ok .ret := decodeWord_encodeWord (i := .ret) rfl

/-! ## Targets (R48, R75, R80) -/

/-- An even address field at 0x200 or above can be jumped to: no field exceeds 0xFFF. -/
theorem executable_addressOf {nnn : BitVec 12} (heven : (addressOf nnn).toNat % 2 = 0)
    (hlow : 0x200 ≤ (addressOf nnn).toNat) : Executable (addressOf nnn) := by
  have := nnn.isLt
  have := toNat_addressOf nnn
  exact ⟨heven, hlow, by omega⟩

/-- The sum of `JP2` fits in 16 bits, so it is not reduced. -/
theorem toNat_offsetTarget (nnn : BitVec 12) (s : State) :
    (offsetTarget nnn s).toNat = nnn.toNat + (s.reg 0).toNat := by
  have := nnn.isLt
  have := (s.reg 0).isLt
  rw [offsetTarget_eq, BitVec.toNat_ofNat]
  omega

/-! ## What follows `CheckJump` (R75) -/

section
variable {t : Word} (s : State) (k : Unit → Answer)

theorem orRaise_checkJump_executable (h : Executable t) : orRaise (checkJump t) s k = k () := by
  rw [checkJump_ok.2 h, orRaise_ok]

theorem orRaise_checkJump_odd (h : t.toNat % 2 = 1) :
    orRaise (checkJump t) s k = raise (.misalignedJumpTarget t) s := by
  rw [checkJump_odd h, orRaise_error, raise]

theorem orRaise_checkJump_outside (h : t.toNat % 2 = 0) (hr : t.toNat < 0x200 ∨ 0xFFE < t.toNat) :
    orRaise (checkJump t) s k = raise (.invalidMemoryRange .execute t 2) s := by
  rw [checkJump_range h hr, orRaise_error, raise]

end

/-! ## `JP` and `JP2` (R77, R80) -/

/-- Settles O13: the three answers of `CheckJump`; an address field is never above 0xFFE when it is even. -/
theorem jpGoesToItsTarget : Obligations.JpGoesToItsTarget := by
  intro s nnn
  rw [ofNat_eq_addressOf, ← toNat_addressOf]
  refine ⟨decodeWord_wordNNN rfl rfl, fun heven hlow => ?_, fun hodd => ?_, fun heven hlow => ?_⟩
  · exact orRaise_checkJump_executable s _ (executable_addressOf heven hlow)
  · exact orRaise_checkJump_odd s _ hodd
  · exact orRaise_checkJump_outside s _ heven (.inl hlow)

/-- Settles O14: the three answers of `CheckJump` on the unreduced sum. -/
theorem jpTwoAddsVZero : Obligations.JpTwoAddsVZero := by
  intro s nnn
  refine ⟨decodeWord_wordNNN rfl rfl, ?_⟩
  rintro sum rfl
  rw [← offsetTarget_eq, ← toNat_offsetTarget]
  exact ⟨fun heven hlow hhigh => orRaise_checkJump_executable s _ ⟨heven, hlow, hhigh⟩,
    orRaise_checkJump_odd s _, orRaise_checkJump_outside s _⟩

/-! ## `CALL` and `RET` (R78, R79) -/

/-- With a free slot `CALL` goes on to the check of its target. -/
theorem exec_call_of_room {s : State} (h : s.sp.val < 16) (nnn : BitVec 12) :
    exec (.call nnn) s =
      orRaise (checkJump (addressOf nnn)) s fun _ => .next ((s.push s.pc).setPc (addressOf nnn)) :=
  if_neg (Nat.ne_of_lt h)

/-- With a return address held `RET` goes on to the check of its target. -/
theorem exec_ret_of_held {s : State} (h : 0 < s.sp.val) :
    exec .ret s = orRaise (checkJump (returnTarget s)) s fun _ => .next ((s.setPc (returnTarget s)).pop) :=
  if_neg (Nat.ne_of_gt h)

theorem exec_call_executable {s : State} {nnn : BitVec 12} (h : s.sp.val < 16) (ha : Executable (addressOf nnn)) :
    exec (.call nnn) s = .next ((s.push s.pc).setPc (addressOf nnn)) := by
  rw [exec_call_of_room h, orRaise_checkJump_executable s _ ha]

theorem exec_ret_executable {s : State} (h : 0 < s.sp.val) (ha : Executable (returnTarget s)) :
    exec .ret s = .next ((s.setPc (returnTarget s)).pop) := by
  rw [exec_ret_of_held h, orRaise_checkJump_executable s _ ha]

/-- Settles O15: the full stack first, then the three answers of `CheckJump`; the effect is that of `State.push`. -/
theorem callPushesItsOwnAddress : Obligations.CallPushesItsOwnAddress := by
  intro s nnn
  rw [ofNat_eq_addressOf, ← toNat_addressOf]
  refine ⟨decodeWord_wordNNN rfl rfl, fun hfull => if_pos hfull, fun hroom hodd => ?_,
    fun hroom heven hlow => ?_, fun hroom heven hlow => ?_⟩
  · exact (exec_call_of_room hroom nnn).trans (orRaise_checkJump_odd s _ hodd)
  · exact (exec_call_of_room hroom nnn).trans (orRaise_checkJump_outside s _ heven (.inl hlow))
  · exact ⟨_, exec_call_executable hroom (executable_addressOf heven hlow), rfl, s.push_sp_val s.pc hroom,
      s.push_stack_get s.pc, rfl⟩

/-- Settles O16: the empty stack first, then the three answers of `CheckJump` on the address 2 past the top slot; the
effect is that of `State.pop`. -/
theorem retPopsAndAddsTwo : Obligations.RetPopsAndAddsTwo := by
  refine ⟨decodeWord_ret, fun s => ⟨fun hempty => if_pos hempty, ?_⟩⟩
  rintro hheld back (rfl : back = returnTarget s)
  refine ⟨fun hback => ?_, fun hodd => ?_, fun heven hout => ?_⟩
  · exact ⟨_, exec_ret_executable hheld hback, rfl, s.pop_sp_val hheld, rfl⟩
  · exact (exec_ret_of_held hheld).trans (orRaise_checkJump_odd s _ hodd)
  · exact (exec_ret_of_held hheld).trans (orRaise_checkJump_outside s _ heven hout)

/-! ## A `CALL` and the `RET` at its target (R78) -/

/-- The slot of an instruction that moved `pc`: no advance, only the snapshot (R66). -/
theorem step_of_moved {s u : State} {i : Instr} (hf : Fetches s i) (hu : exec i s = .next u) (hran : u.fault = none)
    (hmoved : u.pc ≠ s.pc) : step s = .next u.snapshot := by
  rw [step_of_exec hf hu, postExecute_running hran, advance, if_neg fun h => hmoved h.1]

/-- The state after the slot of a `CALL` from another address than its target `a`. -/
def State.called (s : State) (a : Word) : State := ((s.push s.pc).setPc a).snapshot

theorem called_sp_val {s : State} (a : Word) (hroom : s.sp.val < 16) : (s.called a).sp.val = s.sp.val + 1 :=
  s.push_sp_val s.pc hroom

/-- The top slot after a call holds the address of the call. -/
theorem returnTarget_called {s : State} (a : Word) (hroom : s.sp.val < 16) :
    returnTarget (s.called a) = s.pc + 2 := by
  have htop : (s.called a).top = s.pc := by
    simp only [State.top, called_sp_val a hroom, Nat.add_sub_cancel]
    exact (s.push_stack_get s.pc s.sp.val hroom).trans (if_pos rfl)
  rw [returnTarget, htop]

/-- A call keeps memory, so its target is fetched as the caller sees it. -/
theorem fetches_called {s : State} {a : Word} {i : Instr} (hf : s.fault = none) (ha : Executable a)
    (hi : decodeWord (codeWord s a.toNat) = .ok i) : Fetches (s.called a) i :=
  ⟨hf, ha, hi⟩

/-- The instruction after one that is not in the last slot can be executed. -/
theorem Executable.add_two {a : Word} (ha : Executable a) (hlast : a.toNat < 0xFFE) : Executable (a + 2) := by
  obtain ⟨heven, hlow, -⟩ := ha
  have hnext : (a + 2).toNat = a.toNat + 2 := by bv_omega
  rw [Executable, hnext]
  omega

/-- Settles O17: both transfers leave their own address, so that neither slot advances; between them nothing but the
top slot, `sp`, `pc` and the snapshot has changed, and the pop undoes the push. -/
theorem callThenRetReturns : Obligations.CallThenRetReturns := by
  intro s nnn hf _ hroom heven hlow hself hnext hlast hcode
  rw [← toNat_addressOf] at heven hlow hself hnext hcode ⊢
  have ha : Executable (addressOf nnn) := executable_addressOf heven hlow
  have hcall : step s = .next (s.called (addressOf nnn)) :=
    step_of_moved hf (exec_call_executable hroom ha) hf.1 fun h => hself (congrArg BitVec.toNat h)
  have hret : Fetches (s.called (addressOf nnn)) .ret := fetches_called hf.1 ha (hcode ▸ decodeWord_ret)
  have hheld : 0 < (s.called (addressOf nnn)).sp.val := called_sp_val _ hroom ▸ Nat.succ_pos _
  have hback : returnTarget (s.called (addressOf nnn)) = s.pc + 2 := returnTarget_called _ hroom
  have hbackExec : Executable (returnTarget (s.called (addressOf nnn))) := hback ▸ hf.2.1.add_two hlast
  have hmoved : returnTarget (s.called (addressOf nnn)) ≠ addressOf nnn := by
    rw [hback]
    bv_omega
  have hreturn := step_of_moved hret (exec_ret_executable hheld hbackExec) hf.1 hmoved
  exact ⟨_, _, hcall, rfl, hreturn, hf.1, hback, add_sub_cancel_right s.sp 1⟩

/-! ## The skips (R81 to R84) -/

/-- A skip writes `pc` alone. -/
theorem skipIf_eq_setPc {b : Bool} {s t : State} (h : skipIf b s = .next t) : t = s.setPc t.pc := by
  rcases skipIf_next h with ⟨-, rfl⟩ | ⟨-, rfl⟩ <;> rfl

/-- The slot of a skip, run while no key is awaited, ends where the condition says (R66, R81). -/
theorem step_of_skipIf {i : Instr} {b : Bool} {s : State} {cond : Prop} [Decidable cond]
    (hi : exec i s = skipIf b s) (hb : b = true ↔ cond) (hf : Fetches s i) (hw : s.isWaitingForKey = false) :
    ∃ t, step s = .next t ∧ t.fault = none ∧ t.pc = skipping s.pc cond := by
  obtain ⟨u, hu⟩ := exec_answers i s
  have hskip : skipIf b s = .next u := hi.symm.trans hu
  have hset : u = s.setPc u.pc := skipIf_eq_setPc hskip
  have hran : u.fault = none := by rw [hset]; exact hf.1
  have huw : u.isWaitingForKey = false := by rw [hset]; exact hw
  refine ⟨(advance s.pc u).snapshot, by rw [step_of_exec hf hu, postExecute_running hran], ?_, ?_⟩
  · rw [advance_eq_setPc]
    exact hran
  · exact (advance_pc_landing s.pc huw).trans (skipIf_landing hb hskip)

/-- A meaning that is a skip on `b` is a skip in the sense of the claims. -/
theorem skipsWhen_of_skipIf {i : Instr} {b : Bool} {s : State} {cond : Prop} [Decidable cond]
    (hi : exec i s = skipIf b s) (hb : b = true ↔ cond) : SkipsWhen i s cond := by
  refine ⟨fun hc => ?_, fun hc => ?_, fun hf hw => ?_⟩
  · rw [hi, hb.2 hc]
    rfl
  · rw [hi, Bool.eq_false_iff.2 (mt hb.1 hc)]
    rfl
  · obtain ⟨t, hstep, hran, hpc⟩ := step_of_skipIf hi hb hf hw
    exact ⟨t, hstep, hran, fun hc => hpc.trans (if_pos hc), fun hc => hpc.trans (if_neg hc)⟩

/-- Settles O18: each of the four is `skipIf` on the test of its condition. -/
theorem skipsTestAndAddFour : Obligations.SkipsTestAndAddFour :=
  ⟨fun _ _ _ => ⟨decodeWord_wordXKK rfl rfl, skipsWhen_of_skipIf rfl beq_iff_eq⟩,
    fun _ _ _ => ⟨decodeWord_wordXKK rfl rfl, skipsWhen_of_skipIf rfl bne_iff_ne⟩,
    fun _ _ _ => ⟨decodeWord_wordXYN (by decide) rfl rfl, skipsWhen_of_skipIf rfl beq_iff_eq⟩,
    fun _ _ _ => ⟨decodeWord_wordXYN (by decide) rfl rfl, skipsWhen_of_skipIf rfl bne_iff_ne⟩⟩

/-! ## `SYS` (R76) -/

/-- Settles O12: the meaning keeps the state, so that its slot is the advance and the snapshot alone. -/
theorem sysOnlyAdvances : Obligations.SysOnlyAdvances := by
  refine ⟨fun s nnn => ⟨rfl, fun hf hw => ?_⟩, fun nnn hcls hret => ?_⟩
  · have hkeep : exec (.sys nnn) s = .next s := rfl
    rw [step_of_exec hf hkeep, postExecute_running hf.1, snapshot_advance, if_pos ⟨rfl, hw⟩]
  · exact decodeWord_wordNNN rfl ((wellFormed_sys nnn).2 ⟨hcls, hret⟩)

end Sys2Proof.Machine

/-!
SUPPORT. Loads, arithmetic, logic, shifts and random bytes (spec 42_alu.md R90 to R103): what one register write and the
two orders of result and flag leave, and the model's results and flags as the numbers that the claims write. `SUB` and
`SUBN` share the lemmas about a difference, with the operands exchanged.
-/

namespace Sys2Proof.Machine

/-! ## What the register writes leave (R90) -/

theorem writesReg_setV (s : State) (x : Reg) (b : Byte) : WritesReg s (s.setV x b) x b :=
  ⟨s.reg_setV_self x b, fun _ hr => s.reg_setV_ne b hr, rfl⟩

/-- A meaning that writes one register. -/
theorem writes_of_setV {i : Instr} {s : State} {x : Reg} {b : Byte} (h : exec i s = .next (s.setV x b)) :
    ∃ t, exec i s = .next t ∧ WritesReg s t x b :=
  ⟨_, h, writesReg_setV s x b⟩

/-- Two writes in a row keep the registers that neither of them names. -/
theorem State.reg_setV_setV_ne (s : State) {p q r : Reg} (a b : Byte) (hp : r ≠ p) (hq : r ≠ q) :
    ((s.setV p a).setV q b).reg r = s.reg r :=
  (State.reg_setV_ne _ b hq).trans (s.reg_setV_ne a hp)

@[simp] theorem State.reg_countDraw (s : State) (r : Reg) : s.countDraw.reg r = s.reg r := rfl

/-- Result, then flag: the flag is always there to read, the result unless `x` is VF. -/
theorem writes_of_resultThenFlag {i : Instr} {s : State} {x : Reg} {result flag : Byte}
    (h : exec i s = resultThenFlag x result flag s) :
    ∃ t, exec i s = .next t ∧ t.reg VF = flag ∧ (x ≠ VF → t.reg x = result) ∧ WritesRegAndVF s t x :=
  ⟨_, h, State.reg_setV_self _ VF flag,
    fun hx => (State.reg_setV_ne _ flag hx).trans (s.reg_setV_self x result),
    fun _ hr hvf => s.reg_setV_setV_ne result flag hr hvf, rfl⟩

/-- Flag, then result: the result is always there to read, the flag unless `x` is VF. -/
theorem writes_of_flagThenResult {i : Instr} {s : State} {x : Reg} {flag result : Byte}
    (h : exec i s = flagThenResult x flag result s) :
    ∃ t, exec i s = .next t ∧ t.reg x = result ∧ (x ≠ VF → t.reg VF = flag) ∧ WritesRegAndVF s t x :=
  ⟨_, h, State.reg_setV_self _ x result,
    fun hx => (State.reg_setV_ne _ result hx.symm).trans (s.reg_setV_self VF flag),
    fun _ hr hvf => s.reg_setV_setV_ne flag result hvf hr, rfl⟩

/-! ## Results as numbers -/

theorem byte_add_eq (a b : Byte) : a + b = BitVec.ofNat 8 ((a.toNat + b.toNat) % 256) := by
  bv_omega

theorem byte_sub_eq (a b : Byte) : a - b = BitVec.ofNat 8 ((a.toNat + 256 - b.toNat) % 256) := by
  bv_omega

theorem byte_shiftRight_one_eq (a : Byte) : a >>> 1 = BitVec.ofNat 8 (a.toNat / 2) := by
  apply BitVec.eq_of_toNat_eq
  have := a.isLt
  rw [BitVec.toNat_ushiftRight, Nat.shiftRight_eq_div_pow, BitVec.toNat_ofNat]
  omega

theorem byte_shiftLeft_one_eq (a : Byte) : a <<< 1 = BitVec.ofNat 8 (a.toNat * 2 % 256) := by
  apply BitVec.eq_of_toNat_eq
  rw [BitVec.toNat_shiftLeft, Nat.shiftLeft_eq, BitVec.toNat_ofNat]
  omega

/-! ## Flags as numbers (R11) -/

/-- The 8-bit sum is not greater than `a` exactly when it wrapped or nothing was added (R97). -/
theorem addFlag_eq (a b : Byte) : addFlag a (a + b) = if 255 < a.toNat + b.toNat ∨ b = 0 then 1 else 0 := by
  have hsum : ¬ a < a + b ↔ 255 < a.toNat + b.toNat ∨ b = 0 := by bv_omega
  simp only [addFlag, flagByte_eq, Bool.not_eq_true', decide_eq_false_iff_not, hsum]

theorem notBorrowFlag_eq (a b : Byte) : notBorrowFlag a b = if a.toNat > b.toNat then 1 else 0 := by
  simp only [notBorrowFlag, flagByte_eq, decide_eq_true_eq, BitVec.lt_def, gt_iff_lt]

theorem lowBitFlag_eq (a : Byte) : lowBitFlag a = BitVec.ofNat 8 (a.toNat % 2) := by
  apply BitVec.eq_of_toNat_eq
  have hone : (1 : Byte).toNat = 1 := rfl
  rw [lowBitFlag, BitVec.toNat_and, hone, Nat.and_one_is_mod, BitVec.toNat_ofNat]
  omega

theorem highBitFlag_eq (a : Byte) : highBitFlag a = BitVec.ofNat 8 (a.toNat / 128) := by
  have hlow : highBitFlag a = lowBitFlag (a >>> 7) := rfl
  have := a.isLt
  rw [hlow, lowBitFlag_eq, BitVec.toNat_ushiftRight, Nat.shiftRight_eq_div_pow, Nat.mod_eq_of_lt (by omega)]

/-- The difference of two bytes, then whether the minuend is the greater (R98, R99). -/
theorem writes_of_difference {i : Instr} {s : State} {x : Reg} {a b : Byte}
    (h : exec i s = resultThenFlag x (a - b) (notBorrowFlag a b) s) :
    ∃ t, exec i s = .next t ∧ t.reg VF = (if a.toNat > b.toNat then 1 else 0) ∧
      (x ≠ VF → t.reg x = BitVec.ofNat 8 ((a.toNat + 256 - b.toNat) % 256)) ∧ WritesRegAndVF s t x := by
  rw [← byte_sub_eq, ← notBorrowFlag_eq]
  exact writes_of_resultThenFlag h

/-! ## The claims -/

/-- Settles O19: each of the six is one register write; only the sum of `ADD` is written as a number. -/
theorem loadsAndLogicWriteOneRegister : Obligations.LoadsAndLogicWriteOneRegister :=
  ⟨fun _ _ _ => ⟨decodeWord_wordXKK rfl rfl, writes_of_setV rfl⟩,
    fun _ _ _ => ⟨decodeWord_wordXYN (by decide) rfl rfl, writes_of_setV rfl⟩,
    fun s x kk => ⟨decodeWord_wordXKK rfl rfl, byte_add_eq (s.reg x) kk ▸ writes_of_setV rfl⟩,
    fun _ _ _ => ⟨decodeWord_wordXYN (by decide) rfl rfl, writes_of_setV rfl⟩,
    fun _ _ _ => ⟨decodeWord_wordXYN (by decide) rfl rfl, writes_of_setV rfl⟩,
    fun _ _ _ => ⟨decodeWord_wordXYN (by decide) rfl rfl, writes_of_setV rfl⟩⟩

/-- Settles O20: result, then flag; the flag of R97 is read off the 8-bit sum. -/
theorem addRegistersSetsFlag : Obligations.AddRegistersSetsFlag := by
  intro s x y
  rw [← byte_add_eq, ← addFlag_eq]
  exact ⟨decodeWord_wordXYN (by decide) rfl rfl, writes_of_resultThenFlag rfl⟩

/-- Settles O21: the two are one difference with the operands exchanged. -/
theorem subtractSetsFlag : Obligations.SubtractSetsFlag :=
  ⟨fun _ _ _ => ⟨decodeWord_wordXYN (by decide) rfl rfl, writes_of_difference rfl⟩,
    fun _ _ _ => ⟨decodeWord_wordXYN (by decide) rfl rfl, writes_of_difference rfl⟩⟩

/-- Settles O22: flag, then result; `y` is in the word and in no write. -/
theorem shiftsByOneSetFlag : Obligations.ShiftsByOneSetFlag := by
  refine ⟨fun s x y => ?_, fun s x y => ?_⟩
  · rw [← byte_shiftRight_one_eq, ← lowBitFlag_eq]
    exact ⟨decodeWord_wordXYN (by decide) rfl rfl, writes_of_flagThenResult rfl⟩
  · rw [← byte_shiftLeft_one_eq, ← highBitFlag_eq]
    exact ⟨decodeWord_wordXYN (by decide) rfl rfl, writes_of_flagThenResult rfl⟩

/-- Settles O23: one register write, then the count of the draw, which no register sees. -/
theorem rndMasksTheDraw : Obligations.RndMasksTheDraw := by
  intro s x kk
  obtain ⟨hvalue, hkept, -⟩ := writesReg_setV s x (Config.drawByte s.draws &&& kk)
  refine ⟨decodeWord_wordXKK rfl rfl, _, rfl, hvalue, rfl, fun j hj => ?_, hkept, rfl⟩
  rw [State.reg_countDraw, hvalue, BitVec.getLsbD_and, hj, Bool.and_false]

end Sys2Proof.Machine

/-!
SUPPORT. Index and memory (spec 43_index_memory.md R110 to R116): the new `index` as a number, what a store at `index`
leaves and when it raises, and what a load from `index` puts in the registers. `LDB` and `LDAI` share the two lemmas
about a store, with their own bytes.
-/

namespace Sys2Proof.Machine

/-! ## The index register (R110 to R112) -/

theorem add_widen_eq (a : Word) (b : Byte) : a + widen b = BitVec.ofNat 16 (a.toNat + b.toNat) := by
  apply BitVec.eq_of_toNat_eq
  simp [widen]

/-- Settles O24: the address field as a number is the address that `LDI` writes. -/
theorem ldiLoadsIndex : Obligations.LdiLoadsIndex := by
  intro s nnn
  rw [ofNat_eq_addressOf]
  exact ⟨decodeWord_wordNNN rfl rfl, rfl⟩

/-- Settles O25: the test of R111 splits the sums at 0xFFFF. -/
theorem addiAddsOrOverflows : Obligations.AddiAddsOrOverflows := by
  intro s x
  rw [← add_widen_eq]
  exact ⟨decodeWord_wordXKK (kk := 0x1E#8) rfl rfl, fun hfits => if_neg (Nat.not_lt.2 hfits),
    fun hover => if_pos hover⟩

/-- Settles O26: the test of R112 splits the digits at 15, and the offset of glyph `d` is `5 * d`. -/
theorem ldfPointsAtTheGlyph : Obligations.LdfPointsAtTheGlyph := fun _ _ =>
  ⟨decodeWord_wordXKK (kk := 0x29#8) rfl rfl, fun hdigit => dif_pos (Nat.lt_succ_of_le hdigit),
    fun habove => dif_neg (Nat.not_lt.2 habove)⟩

/-! ## Stores at `index` (R34, R113 to R115) -/

section
variable {i : Instr} {s : State} {bytes : List Byte}

/-- A store that fits: the bytes are read back in order, every other byte and all else is kept. -/
theorem stores_of_storeAtIndex (h : exec i s = storeAtIndex bytes s) (h0 : 0 < bytes.length)
    (hwf : s.memory.wf = true) (hlow : 0x200 ≤ s.index.toNat) (hend : s.index.toNat + bytes.length ≤ 0x1000) :
    ∃ t, exec i s = .next t ∧
      (∀ k, (hk : k < bytes.length) → t.memory.readByte (s.index.toNat + k) = bytes[k]) ∧
      (∀ a, (a < s.index.toNat ∨ s.index.toNat + bytes.length ≤ a) → t.memory.readByte a = s.memory.readByte a) ∧
      t = { s with memory := t.memory } := by
  refine ⟨s.setMemory (s.memory.writeBytes s.index.toNat bytes), ?_, fun k hk => ?_, fun a ha => ?_, rfl⟩
  · rw [h, storeAtIndex, memWrite_pass h0 hlow hend, orRaise_ok]
  · exact Memory.readByte_writeBytes_inside hwf bytes hend hk
  · exact Memory.readByte_writeBytes_outside s.memory bytes ha

/-- A store that does not fit raises with its own length and stores nothing. -/
theorem raises_of_storeAtIndex (h : exec i s = storeAtIndex bytes s) (h0 : 0 < bytes.length)
    (hn : bytes.length < 65536) (hbad : ¬ (0x200 ≤ s.index.toNat ∧ s.index.toNat + bytes.length ≤ 0x1000)) :
    Raises i s (.invalidMemoryRange .write s.index (BitVec.ofNat 16 bytes.length)) := by
  rw [Raises, h, storeAtIndex, memWrite_fail hn h0 hbad, orRaise_error, State.halt]

end

/-- The digits of R113 as numbers. -/
theorem toNat_decimalDigits (b : Byte) : ∀ k, (hk : k < (decimalDigits b).length) →
    ((decimalDigits b)[k]).toNat = [b.toNat / 100, b.toNat / 10 % 10, b.toNat % 10][k]
  | 0, _ => BitVec.toNat_udiv
  | 1, _ => BitVec.toNat_umod
  | 2, _ => BitVec.toNat_umod

/-- Settles O27: a store of three bytes, each of them a digit. -/
theorem ldbStoresThreeDigits : Obligations.LdbStoresThreeDigits := by
  intro s x
  have hstore : exec (.ldb x) s = storeAtIndex (decimalDigits (s.reg x)) s := rfl
  have hlen : (decimalDigits (s.reg x)).length = 3 := rfl
  refine ⟨decodeWord_wordXKK (kk := 0x33#8) rfl rfl, fun hwf hlow hend => ?_, fun hbad => ?_⟩
  · obtain ⟨t, ht, hin, hout, hframe⟩ := stores_of_storeAtIndex hstore (by omega) hwf hlow (by omega)
    have hdigit k hk := (congrArg BitVec.toNat (hin k hk)).trans (toNat_decimalDigits (s.reg x) k hk)
    exact ⟨t, ht, hdigit 0 (by omega), hdigit 1 (by omega), hdigit 2 (by omega), hout, hframe⟩
  · exact raises_of_storeAtIndex hstore (by omega) (by omega) (by omega)

/-- Settles O28: a store of `x + 1` bytes, the registers in order. -/
theorem ldaiStoresRegisters : Obligations.LdaiStoresRegisters := by
  intro s x
  have hstore : exec (.ldai x) s = storeAtIndex (s.regsUpTo x) s := rfl
  have hlen := s.length_regsUpTo x
  refine ⟨decodeWord_wordXKK (kk := 0x55#8) rfl rfl, fun hwf hlow hend => ?_, fun hbad => ?_⟩
  · obtain ⟨t, ht, hin, hout, hframe⟩ := stores_of_storeAtIndex hstore (by omega) hwf hlow (by omega)
    refine ⟨t, ht, fun r hr => ?_, fun a ha => hout a (by omega), hframe⟩
    rw [hin r.val (by omega), State.getElem_regsUpTo]
  · rw [← hlen]
    exact raises_of_storeAtIndex hstore (by omega) (by omega) (by omega)

/-! ## Loads from `index` (R33, R116) -/

/-- The registers after the bytes from `a` up are loaded: the first `n` hold their bytes, the others are kept. -/
theorem State.reg_setRegs_readBytes (s : State) (a n : Nat) (r : Reg) :
    (s.setRegs (putRegs (s.memory.readBytes a n) 0 s.v)).reg r =
      if r.val < n then s.memory.readByte (a + r.val) else s.reg r := by
  simp [State.reg, putRegs_get, Memory.getElem_readBytes]

/-- Settles O29: a checked read of `x + 1` bytes, put in the registers in order; a read has no lower bound. -/
theorem ldmLoadsRegisters : Obligations.LdmLoadsRegisters := by
  intro s x
  refine ⟨decodeWord_wordXKK (kk := 0x65#8) rfl rfl, fun hend => ?_, fun hbad => ?_⟩
  · refine ⟨s.setRegs (putRegs (s.memory.readBytes s.index.toNat (x.val + 1)) 0 s.v), ?_, fun r hr => ?_,
      fun r hr => ?_, rfl⟩
    · rw [exec, execLdm, memRead_pass (by omega) (by omega), orRaise_ok]
    · rw [State.reg_setRegs_readBytes, if_pos (by omega)]
    · rw [State.reg_setRegs_readBytes, if_neg (by omega)]
  · rw [Raises, exec, execLdm, memRead_fail (by omega) (by omega) (by omega), orRaise_error, State.halt]

end Sys2Proof.Machine

/-!
SUPPORT. The display (spec 44_display.md R123 to R126): what a piece of a drawing does to the surface and to the flag
is one relation, `Toggles`, over the pixels the piece covers. Pieces that share no pixel add up, from the bit to the
row to the sprite, and the claims about `DRW` are read off the relation for the whole sprite.
-/

namespace Sys2Proof.Machine

/-- Settles O30: the dark surface is the only write. -/
theorem clsDarkensEveryPixel : Obligations.ClsDarkensEveryPixel :=
  ⟨decodeWord_encodeWord (i := .cls) rfl, fun _ => ⟨_, rfl, Display.readPixel_dark, rfl⟩⟩

/-! ## A sprite that cannot be read -/

/-- Settles O33: the checked read fails before anything is drawn. -/
theorem drwRaisesOnBadSprite : Obligations.DrwRaisesOnBadSprite := by
  intro s x y n
  refine ⟨fun hnone => ?_, fun hsome hpast => ?_⟩
  · rw [Raises, exec, execDrw, hnone, memRead_zero, orRaise_error, State.halt]
  · rw [Raises, exec, execDrw, memRead_fail (by omega) hsome hpast, orRaise_error, State.halt]

/-! ## Drawing over a set of pixels -/

/-- From `p` to `q`, exactly the pixels of `P` are toggled, and a lit one among them is noted. -/
structure Toggles (P : Fin 64 → Fin 32 → Prop) (p q : Display × Bool) : Prop where
  toggled : ∀ px py, P px py → q.1.readPixel px py = !p.1.readPixel px py
  kept : ∀ px py, ¬ P px py → q.1.readPixel px py = p.1.readPixel px py
  noted : q.2 = true ↔ p.2 = true ∨ ∃ px py, p.1.readPixel px py = true ∧ P px py

section
variable {P Q R : Fin 64 → Fin 32 → Prop} {p q u : Display × Bool}

theorem Toggles.nothing (h : ∀ px py, ¬ P px py) : Toggles P p p where
  toggled px py hP := absurd hP (h px py)
  kept _ _ _ := rfl
  noted := by simp [h]

/-- Two drawings that share no pixel, one after the other, are one drawing: the second finds its pixels as they were
before the first. -/
theorem Toggles.trans (hP : Toggles P p q) (hQ : Toggles Q q u) (hdisjoint : ∀ px py, P px py → ¬ Q px py)
    (hR : ∀ px py, R px py ↔ P px py ∨ Q px py) : Toggles R p u where
  toggled px py h := by
    rcases (hR px py).1 h with h1 | h2
    · rw [hQ.kept px py (hdisjoint px py h1), hP.toggled px py h1]
    · rw [hQ.toggled px py h2, hP.kept px py fun h1 => hdisjoint px py h1 h2]
  kept px py h := by
    obtain ⟨h1, h2⟩ := not_or.1 (mt (hR px py).2 h)
    rw [hQ.kept px py h2, hP.kept px py h1]
  noted := by
    have hsame : ∀ px py, q.1.readPixel px py = true ∧ Q px py ↔ p.1.readPixel px py = true ∧ Q px py :=
      fun px py => and_congr_left fun h2 => by rw [hP.kept px py fun h1 => hdisjoint px py h1 h2]
    simp only [hQ.noted, hP.noted, hsame, hR, and_or_left, exists_or, or_assoc]

/-- The pixels erased are the lit ones among those drawn over. -/
theorem Toggles.erased_iff (h : Toggles P p q) :
    (∃ px py, p.1.readPixel px py = true ∧ q.1.readPixel px py = false) ↔
      ∃ px py, p.1.readPixel px py = true ∧ P px py := by
  refine exists₂_congr fun px py => and_congr_right fun hlit => ?_
  by_cases hP : P px py
  · simp [h.toggled px py hP, hlit, hP]
  · simp [h.kept px py hP, hlit, hP]

/-- Drawing twice over the same pixels restores the surface; the flag may be reset in between. -/
theorem Toggles.restores {b : Bool} (h : Toggles P p q) (hagain : Toggles P (q.1, b) u) (px : Fin 64) (py : Fin 32) :
    u.1.readPixel px py = p.1.readPixel px py := by
  by_cases hP : P px py
  · rw [hagain.toggled px py hP, h.toggled px py hP, Bool.not_not]
  · rw [hagain.kept px py hP, h.kept px py hP]

end

/-! ## The pixels under a bit, a row and a sprite (R124) -/

/-- Bit `c` of a sprite row, drawn as row `r`, is 1 and falls on the pixel. -/
def BitCovers (x0 y0 row : Byte) (r c : Nat) (px : Fin 64) (py : Fin 32) : Prop :=
  spriteBit row c = true ∧ px = columnOf x0 c ∧ py = rowOf y0 r

/-- One of the last `k` bits of a sprite row covers the pixel. -/
def RowCovers (x0 y0 row : Byte) (r k : Nat) (px : Fin 64) (py : Fin 32) : Prop :=
  ∃ c, 8 - k ≤ c ∧ c < 8 ∧ BitCovers x0 y0 row r c px py

/-- One of `n` rows, held from address `a` and drawn from row `r` on, covers the pixel. -/
def RowsCover (x0 y0 : Byte) (m : Memory) (a r n : Nat) (px : Fin 64) (py : Fin 32) : Prop :=
  ∃ i, i < n ∧ RowCovers x0 y0 (m.readByte (a + i)) (r + i) 8 px py

/-- The sprite of the claims is the one that is drawn, row by row and bit by bit. -/
theorem rowsCover_eq_spriteCovers (s : State) (x0 y0 : Byte) (n : Nat) :
    RowsCover x0 y0 s.memory s.index.toNat 0 n = SpriteCovers s x0 y0 n := by
  funext px py
  simp only [RowsCover, RowCovers, BitCovers, SpriteCovers, spriteBit, Fin.ext_iff, columnOf, rowOf, Nat.zero_add,
    Nat.sub_self, Nat.zero_le, true_and, exists_and_left]
  refine propext (exists_congr fun r => and_congr_right fun _ => exists_congr fun c => and_congr_right fun _ => ?_)
  rw [and_comm, and_assoc]

theorem rowCovers_succ {k : Nat} (hk : k < 8) (x0 y0 row : Byte) (r : Nat) (px : Fin 64) (py : Fin 32) :
    RowCovers x0 y0 row r (k + 1) px py ↔ BitCovers x0 y0 row r (7 - k) px py ∨ RowCovers x0 y0 row r k px py := by
  constructor
  · rintro ⟨c, hfrom, hc, hbit⟩
    rcases Nat.eq_or_lt_of_le (show 7 - k ≤ c by omega) with rfl | hlater
    · exact .inl hbit
    · exact .inr ⟨c, by omega, hc, hbit⟩
  · rintro (hbit | ⟨c, hfrom, hc, hbit⟩)
    · exact ⟨7 - k, by omega, by omega, hbit⟩
    · exact ⟨c, by omega, hc, hbit⟩

theorem rowsCover_succ (x0 y0 : Byte) (m : Memory) (a r n : Nat) (px : Fin 64) (py : Fin 32) :
    RowsCover x0 y0 m a r (n + 1) px py ↔
      RowCovers x0 y0 (m.readByte a) r 8 px py ∨ RowsCover x0 y0 m (a + 1) (r + 1) n px py := by
  simp only [RowsCover, Nat.exists_lt_succ_left, Nat.add_zero, Nat.add_assoc, Nat.add_comm 1]

/-! ## No two bits of a sprite share a pixel -/

theorem columnOf_ne (x0 : Byte) {c c' : Nat} (h : c < c') (hwrap : c' < c + 64) : columnOf x0 c ≠ columnOf x0 c' := by
  simp only [columnOf, ne_eq, Fin.mk.injEq]
  omega

theorem rowOf_ne (y0 : Byte) {r r' : Nat} (h : r < r') (hwrap : r' < r + 32) : rowOf y0 r ≠ rowOf y0 r' := by
  simp only [rowOf, ne_eq, Fin.mk.injEq]
  omega

theorem RowCovers.py_eq {x0 y0 row : Byte} {r k : Nat} {px : Fin 64} {py : Fin 32}
    (h : RowCovers x0 y0 row r k px py) : py = rowOf y0 r := by
  obtain ⟨c, -, -, -, -, hpy⟩ := h
  exact hpy

theorem not_rowCovers_of_bitCovers {x0 y0 row : Byte} {r k : Nat} (hk : k < 8) {px : Fin 64} {py : Fin 32}
    (hbit : BitCovers x0 y0 row r (7 - k) px py) : ¬ RowCovers x0 y0 row r k px py := by
  rintro ⟨c, hfrom, hc, -, hpx, -⟩
  exact columnOf_ne x0 (show 7 - k < c by omega) (by omega) (hbit.2.1.symm.trans hpx)

theorem not_rowsCover_of_rowCovers {x0 y0 row : Byte} {m : Memory} {a r n k : Nat} (hn : n < 32) {px : Fin 64}
    {py : Fin 32} (hrow : RowCovers x0 y0 row r k px py) : ¬ RowsCover x0 y0 m a (r + 1) n px py := by
  rintro ⟨i, hi, hlater⟩
  exact rowOf_ne y0 (show r < r + 1 + i by omega) (by omega) (hrow.py_eq.symm.trans hlater.py_eq)

/-! ## The loops of R124 -/

theorem toggles_drawBit (x0 y0 row : Byte) (r c : Nat) (p : Display × Bool) :
    Toggles (BitCovers x0 y0 row r c) p (drawBit x0 y0 row r c p) where
  toggled px py h := by rw [readPixel_drawBit]; exact if_pos h
  kept px py h := by rw [readPixel_drawBit]; exact if_neg h
  noted := by
    rw [erased_drawBit, Bool.or_eq_true, Bool.and_eq_true]
    refine or_congr_right ⟨fun ⟨hbit, hlit⟩ => ⟨_, _, hlit, hbit, rfl, rfl⟩, ?_⟩
    rintro ⟨_, _, hlit, hbit, rfl, rfl⟩
    exact ⟨hbit, hlit⟩

theorem toggles_drawColumns (x0 y0 row : Byte) (r : Nat) {k : Nat} (hk : k ≤ 8) (p : Display × Bool) :
    Toggles (RowCovers x0 y0 row r k) p (drawColumns x0 y0 row r k p) := by
  induction k generalizing p with
  | zero => exact .nothing fun _ _ ⟨_, hfrom, hc, _⟩ => absurd hc (Nat.not_lt.2 hfrom)
  | succ k ih =>
    exact (toggles_drawBit x0 y0 row r (7 - k) p).trans (ih (by omega) _)
      (fun _ _ => not_rowCovers_of_bitCovers hk) (rowCovers_succ hk x0 y0 row r)

/-- At most 32 rows: with more, a row would come back to the display row of an earlier one. -/
theorem toggles_drawRows (x0 y0 : Byte) (m : Memory) (a r : Nat) {n : Nat} (hn : n ≤ 32) (p : Display × Bool) :
    Toggles (RowsCover x0 y0 m a r n) p (drawRows x0 y0 r (m.readBytes a n) p) := by
  induction n generalizing a r p with
  | zero => exact .nothing fun _ _ ⟨_, hi, _⟩ => Nat.not_lt_zero _ hi
  | succ n ih =>
    exact (toggles_drawColumns x0 y0 (m.readByte a) r (Nat.le_refl 8) p).trans (ih (a + 1) (r + 1) (by omega) _)
      (fun _ _ => not_rowsCover_of_rowCovers hn) (rowsCover_succ x0 y0 m a r n)

/-! ## `DRW` (R124 to R126) -/

/-- The state that `DRW` leaves when the loops end with `p`: the surface, then VF. -/
def State.drawn (s : State) (p : Display × Bool) : State := (s.setDisplay p.1).setV VF (collisionFlag p.2)

theorem State.reg_drawn_VF (s : State) (p : Display × Bool) : (s.drawn p).reg VF = collisionFlag p.2 :=
  State.reg_setV_self _ VF _

theorem State.reg_drawn_ne (s : State) (p : Display × Bool) {r : Reg} (hr : r ≠ VF) : (s.drawn p).reg r = s.reg r :=
  State.reg_setV_ne (s.setDisplay p.1) _ hr

/-- A sprite that can be read is drawn over the pixels it covers. -/
theorem exec_drw_toggles {s : State} {n : BitVec 4} (x y : Reg) (hsome : 0 < n.toNat)
    (hfits : s.index.toNat + n.toNat ≤ 0x1000) :
    ∃ p : Display × Bool, exec (.drw x y n) s = .next (s.drawn p) ∧
      Toggles (SpriteCovers s (s.reg x) (s.reg y) n.toNat) (s.display, false) p := by
  refine ⟨drawRows (s.reg x) (s.reg y) 0 (s.memory.readBytes s.index.toNat n.toNat) (s.display, false), ?_, ?_⟩
  · rw [exec, execDrw, memRead_pass hsome hfits, orRaise_ok, State.drawn]
  · rw [← rowsCover_eq_spriteCovers]
    exact toggles_drawRows _ _ _ _ _ (by omega) _

/-- Settles O31: the pixels are those of `Toggles` for the sprite; of the registers only VF is written. -/
theorem drwTogglesTheSpritePixels : Obligations.DrwTogglesTheSpritePixels := by
  intro s x y n
  refine ⟨decodeWord_wordXYN n.isLt (by rw [BitVec.ofNat_toNat, BitVec.setWidth_eq]; rfl) rfl, fun hsome hfits => ?_⟩
  obtain ⟨p, hexec, hdraw⟩ := exec_drw_toggles x y hsome hfits
  exact ⟨_, hexec, hdraw.toggled, hdraw.kept, fun _ => s.reg_drawn_ne p, rfl⟩

/-- VF after a draw over `P`: 1 exactly when a pixel was erased (R126, first sentence). -/
theorem Toggles.collisionFlag_eq {P : Fin 64 → Fin 32 → Prop} {d : Display} {p : Display × Bool}
    (h : Toggles P (d, false) p) :
    ((∃ px py, d.readPixel px py = true ∧ p.1.readPixel px py = false) → collisionFlag p.2 = 1) ∧
      (¬ (∃ px py, d.readPixel px py = true ∧ p.1.readPixel px py = false) → collisionFlag p.2 = 0) := by
  have hnoted : p.2 = true ↔ ∃ px py, d.readPixel px py = true ∧ p.1.readPixel px py = false := by
    rw [h.noted, h.erased_iff]
    simp
  rw [← hnoted, collisionFlag, flagByte_eq]
  exact ⟨fun hp => if_pos hp, fun hp => if_neg hp⟩

/-- Settles O32: VF by the noted pixels of `Toggles`. The draw writes neither memory nor `index`, so a second one, if
VF was not a coordinate that changed, is over the same pixels. -/
theorem drwFlagReportsErasure : Obligations.DrwFlagReportsErasure := by
  intro s x y n hsome hfits
  obtain ⟨p, hexec, hdraw⟩ := exec_drw_toggles x y hsome hfits
  obtain ⟨hone, hzero⟩ := hdraw.collisionFlag_eq
  rw [← s.reg_drawn_VF p] at hone hzero
  refine ⟨s.drawn p, hexec, hone, hzero, hdraw.erased_iff, fun hx hy => ?_⟩
  obtain ⟨q, hexec', hagain⟩ := exec_drw_toggles (s := s.drawn p) x y hsome hfits
  rw [hx, hy] at hagain
  exact ⟨_, hexec', hdraw.restores hagain⟩

end Sys2Proof.Machine

/-!
SUPPORT. Keys and timers (spec 45_keys_timers.md R130 to R136): what follows the key number's check, edges as the bits
of `keyEdges`, the two answers of `LDK`, and its slots. Entering `LDK` and waiting in it leave the same state, one in
which a key is awaited, so both share the lemmas about a blocked `LDK`.
-/

namespace Sys2Proof.Machine

/-! ## The key number (R130, R131) -/

theorem keyNumber_ok {k : Byte} (h : k.toNat ≤ 15) : keyNumber k = .ok () := if_neg (Nat.not_lt.2 h)

theorem keyNumber_error {k : Byte} (h : 15 < k.toNat) : keyNumber k = .error (.invalidKeyIndex k) := if_pos h

theorem exec_skp_of_key {s : State} {x : Reg} (h : (s.reg x).toNat ≤ 15) :
    exec (.skp x) s = skipIf (s.keyDown (s.reg x)) s := by
  rw [exec, execSkp, keyNumber_ok h, orRaise_ok, skipIf]

theorem exec_sknp_of_key {s : State} {x : Reg} (h : (s.reg x).toNat ≤ 15) :
    exec (.sknp x) s = skipIf (!s.keyDown (s.reg x)) s := by
  rw [exec, execSknp, keyNumber_ok h, orRaise_ok, skipIf]
  cases s.keyDown (s.reg x) <;> rfl

/-- A meaning that checks a key number above 15 raises, whatever it would go on with. -/
theorem raises_of_keyNumber {i : Instr} {s : State} {b : Byte} {k : Unit → Answer}
    (hi : exec i s = orRaise (keyNumber b) s k) (h : 15 < b.toNat) : Raises i s (.invalidKeyIndex b) := by
  rw [Raises, hi, keyNumber_error h, orRaise_error, State.halt]

/-- Settles O34: below 16 both are `skipIf`, on the level and on its negation; above 15 the check raises. -/
theorem skipsOnKeyLevel : Obligations.SkipsOnKeyLevel := fun _ _ =>
  ⟨decodeWord_wordXKK (kk := 0x9E#8) rfl rfl, decodeWord_wordXKK (kk := 0xA1#8) rfl rfl,
    fun hkey => skipsWhen_of_skipIf (exec_skp_of_key hkey) Iff.rfl,
    fun hkey => skipsWhen_of_skipIf (exec_sknp_of_key hkey) (Bool.not_eq_true' _).to_iff,
    fun habove => ⟨raises_of_keyNumber rfl habove, raises_of_keyNumber rfl habove⟩⟩

/-! ## Timers (R132, R135, R136) -/

/-- Settles O35: one register write, and two writes of a timer. -/
theorem timersMoveThroughRegisters : Obligations.TimersMoveThroughRegisters := fun _ _ =>
  ⟨decodeWord_wordXKK (kk := 0x07#8) rfl rfl, decodeWord_wordXKK (kk := 0x15#8) rfl rfl,
    decodeWord_wordXKK (kk := 0x18#8) rfl rfl, writes_of_setV rfl, rfl, rfl⟩

/-! ## Key edges (R133) -/

/-- An edge is a bit of `keyEdges`. -/
theorem keyEdge_iff {s : State} {k : Nat} (hk : k < 16) : KeyEdge s k ↔ s.keyEdges.getLsbD k = true := by
  simp [KeyEdge, State.keyEdges, hk]

theorem keyEdges_eq_zero {s : State} (h : ∀ k, k < 16 → ¬ KeyEdge s k) : s.keyEdges = 0 := by
  refine BitVec.eq_of_getLsbD_eq fun k hk => ?_
  rw [Bool.eq_false_iff.2 (mt (keyEdge_iff hk).2 (h k hk))]
  exact BitVec.getLsbD_zero.symm

/-- The lowest edge is the key that `LDK` takes. -/
theorem lowestKey_of_lowest_edge {s : State} {k : Nat} (hk : k < 16) (hedge : KeyEdge s k)
    (hlowest : ∀ j, j < k → ¬ KeyEdge s j) : lowestKey s.keyEdges = some ⟨k, hk⟩ :=
  lowestKey_eq_some.2 ⟨(keyEdge_iff hk).1 hedge,
    fun j hj => Bool.eq_false_iff.2 (mt (keyEdge_iff j.isLt).2 (hlowest j.val hj))⟩

/-- Where there is an edge, `LDK` takes some key. -/
theorem lowestKey_of_edge {s : State} {k : Nat} (hk : k < 16) (hedge : KeyEdge s k) :
    ∃ j, lowestKey s.keyEdges = some j := by
  refine Option.ne_none_iff_exists'.1 fun hnone => ?_
  have hbit := (keyEdge_iff hk).1 hedge
  rw [lowestKey_eq_none.1 hnone] at hbit
  exact absurd hbit (by simp)

/-! ## The answers of `LDK` (R133) -/

section
variable {s : State} {x : Reg}

theorem State.setWaiting_self {w : Bool} (hw : s.isWaitingForKey = w) : s.setWaiting w = s := by
  cases hw
  rfl

/-- Entering, and waiting with no edge: afterwards a key is awaited and nothing else has changed. -/
theorem exec_ldk_blocked (h : s.isWaitingForKey = false ∨ ∀ k, k < 16 → ¬ KeyEdge s k) :
    exec (.ldk x) s = .next (s.setWaiting true) := by
  rw [exec, execLdk]
  cases hw : s.isWaitingForKey with
  | false => rfl
  | true =>
    have hnone : lowestKey s.keyEdges = none :=
      lowestKey_eq_none.2 (keyEdges_eq_zero (h.resolve_left (by simp [hw])))
    rw [hnone, State.setWaiting_self hw]
    rfl

/-- Waiting, with `k` the lowest key that went down. -/
theorem exec_ldk_pressed {k : Fin 16} (hw : s.isWaitingForKey = true) (hk : lowestKey s.keyEdges = some k) :
    exec (.ldk x) s = .next ((s.setV x (BitVec.ofNat 8 k.val)).setWaiting false) := by
  rw [exec, execLdk, if_pos hw, hk]

end

/-- Settles O36: a blocked `LDK` sets the flag, which is no change while waiting; else it takes the lowest edge. -/
theorem ldkWaitsForAPress : Obligations.LdkWaitsForAPress := by
  refine fun s x => ⟨decodeWord_wordXKK (kk := 0x0A#8) rfl rfl, fun hw => exec_ldk_blocked (.inl hw),
    fun hw hquiet => ?_, fun hw k hk hedge hlowest => ?_⟩
  · rw [exec_ldk_blocked (.inr hquiet), State.setWaiting_self hw]
  · exact ⟨_, exec_ldk_pressed hw (lowestKey_of_lowest_edge hk hedge hlowest), s.reg_setV_self x _,
      fun _ hr => s.reg_setV_ne _ hr, rfl, rfl⟩

/-! ## The slots of `LDK` (R70, R134) -/

section
variable {s : State} {x : Reg}

/-- While a key is awaited `pc` does not advance (R66). -/
theorem advance_of_waiting (a : Word) (hw : s.isWaitingForKey = true) : advance a s = s := by
  rw [advance, if_neg (by simp [hw])]

/-- The slot of a blocked `LDK` is the flag and the snapshot. -/
theorem step_ldk_blocked (hf : Fetches s (.ldk x))
    (h : s.isWaitingForKey = false ∨ ∀ k, k < 16 → ¬ KeyEdge s k) :
    step s = .next (s.setWaiting true).snapshot := by
  have hran : (s.setWaiting true).fault = none := hf.1
  rw [step_of_exec hf (exec_ldk_blocked h), postExecute_running hran, advance_of_waiting s.pc rfl]

/-- The slot of an `LDK` that takes key `k` advances. -/
theorem step_ldk_pressed {k : Fin 16} (hf : Fetches s (.ldk x)) (hw : s.isWaitingForKey = true)
    (hk : lowestKey s.keyEdges = some k) :
    step s = .next (((s.setV x (BitVec.ofNat 8 k.val)).setWaiting false).setPc (s.pc + 2)).snapshot := by
  have hran : ((s.setV x (BitVec.ofNat 8 k.val)).setWaiting false).fault = none := hf.1
  rw [step_of_exec hf (exec_ldk_pressed hw hk), postExecute_running hran, advance, if_pos ⟨rfl, rfl⟩]
  rfl

end

/-- Settles O37: a blocked slot keeps `pc` and memory, so the same `LDK` is fetched again; an edge ends the wait. -/
theorem blockedSlotReexecutesLdk : Obligations.BlockedSlotReexecutesLdk := by
  refine fun s x hf => ⟨fun hblocked => ?_, fun hw ⟨k, hk, hedge⟩ => ?_⟩
  · exact ⟨_, step_ldk_blocked hf hblocked, rfl, rfl, rfl, rfl, hf⟩
  · obtain ⟨j, hj⟩ := lowestKey_of_edge hk hedge
    exact ⟨_, step_ldk_pressed hf hw hj, rfl, rfl, rfl⟩

end Sys2Proof.Machine

/-!
SUPPORT. Faults and the step driver (spec 60_exceptions.md R141 to R154): the halted machine, the timer phase, the
milliseconds and the slots of a call. A call is said once by `stepCall_of_legal`, `callPrologue_frame` and the rule of
`runSlots` for one more slot; the statements on calls and the invariant are read off these.
-/

namespace Sys2Proof.Machine

/-! ## The halted machine and the slot that faults (R141, R142) -/

theorem State.halted_iff (s : State) : s.halted = true ↔ s.fault ≠ none := Option.isSome_iff_ne_none

theorem State.not_halted_iff (s : State) : ¬ s.halted = true ↔ s.fault = none := s.halted_iff.not_left

theorem step_of_halted {s : State} {c : Fault} (h : s.fault = some c) : step s = .fault c := by
  rw [step, runSlot, h]

theorem stepCall_of_halted {s : State} (h : s.fault ≠ none) (d : BitVec 32) : stepCall d s = .next s :=
  if_pos (s.halted_iff.2 h)

/-- Settles O9: both the slot and the call ask first whether the machine is halted. -/
theorem haltedMachineRunsNothing : Obligations.HaltedMachineRunsNothing :=
  fun _ _ h => ⟨step_of_halted h, stepCall_of_halted (by simp [h])⟩

@[simp] theorem advance_fault (a : Word) (s : State) : (advance a s).fault = s.fault := by
  rw [advance_eq_setPc, State.setPc_fault]

/-- A slot of a running machine halts it and writes nothing else, or ends without a fault. -/
theorem step_halt_or_running {s t : State} (hs : s.fault = none) (h : step s = .next t) :
    (∃ c, t = s.halt c) ∨ t.fault = none := by
  rcases step_next h with ⟨c, -, -, -, rfl⟩ | ⟨i, u, -, hu, rfl⟩
  · exact .inl ⟨c, rfl⟩
  · rcases (effect_of_exec hu).fault_eq_or_halt with hran | ⟨c, rfl⟩
    · have hnone : u.fault = none := hran.trans hs
      exact .inr (by rw [postExecute_running hnone, State.snapshot_fault, advance_fault, hnone])
    · exact .inl ⟨c, postExecute_halted (s.halt_fault c)⟩

/-- Settles O8: a slot that ends with a fault is a raise, and its cause is the one answered. -/
theorem faultingSlotWritesNothingElse : Obligations.FaultingSlotWritesNothingElse := by
  intro s t c hs h hc
  rcases step_halt_or_running hs h with ⟨c', rfl⟩ | hran
  · obtain rfl : c' = c := Option.some.inj hc
    rfl
  · exact nomatch hran.symm.trans hc

/-! ## The timer phase (R151, R152) -/

/-- A byte counted down by `k`, not below 0. -/
theorem toNat_counted_down (b : Byte) (k : Nat) :
    (if b.toNat ≤ k then 0 else BitVec.ofNat 8 (b.toNat - k) : Byte).toNat = b.toNat - k := by
  have := b.isLt
  split
  · next hout => exact (Nat.sub_eq_zero_of_le hout).symm
  · rw [BitVec.toNat_ofNat]
    omega

theorem toNat_delayDecay_delayTimer (d : BitVec 32) (s : State) :
    (delayDecay d s).delayTimer.toNat = s.delayTimer.toNat - (s.delayAccumulator + d).toNat / 16 :=
  toNat_counted_down s.delayTimer _

theorem toNat_delayDecay_delayAccumulator (d : BitVec 32) (s : State) :
    (delayDecay d s).delayAccumulator.toNat = (s.delayAccumulator + d).toNat % 16 := by
  simp only [delayDecay, delayPeriodMs, BitVec.toNat_ofNat]
  omega

/-- The quirk writes the sound timer alone. -/
theorem soundQuirk_eq_setSoundTimer (s : State) : soundQuirk s = s.setSoundTimer (soundQuirk s).soundTimer := by
  unfold soundQuirk
  split <;> rfl

theorem soundQuirk_soundTimer (s : State) :
    (soundQuirk s).soundTimer = if s.soundTimer = 0 then 0 else s.soundTimer + 1 := by
  unfold soundQuirk
  split
  · assumption
  · rfl

@[simp] theorem timerPhase_delayTimer (d : BitVec 32) (s : State) :
    (timerPhase d s).delayTimer = (delayDecay d s).delayTimer := by
  rw [timerPhase, soundQuirk_eq_setSoundTimer, State.setSoundTimer_delayTimer]

@[simp] theorem timerPhase_delayAccumulator (d : BitVec 32) (s : State) :
    (timerPhase d s).delayAccumulator = (delayDecay d s).delayAccumulator := by
  rw [timerPhase, soundQuirk_eq_setSoundTimer, State.setSoundTimer_delayAccumulator]

@[simp] theorem timerPhase_soundTimer (d : BitVec 32) (s : State) :
    (timerPhase d s).soundTimer = if s.soundTimer = 0 then 0 else s.soundTimer + 1 :=
  soundQuirk_soundTimer (delayDecay d s)

/-- The timer phase writes the two timers and the accumulator of the delay timer. -/
theorem timerPhase_frame (d : BitVec 32) (s : State) : timerPhase d s = { s with
    delayTimer := (timerPhase d s).delayTimer
    soundTimer := (timerPhase d s).soundTimer
    delayAccumulator := (timerPhase d s).delayAccumulator } := by
  rw [timerPhase_delayTimer, timerPhase_delayAccumulator]
  exact soundQuirk_eq_setSoundTimer (delayDecay d s)

@[simp] theorem timerPhase_instructionAccumulator (d : BitVec 32) (s : State) :
    (timerPhase d s).instructionAccumulator = s.instructionAccumulator := by
  rw [timerPhase_frame]

/-- Settles O45: the decay on the sum that does not wrap, the quirk by its two cases, and the frame. -/
theorem timerPhaseMovesBothTimers : Obligations.TimerPhaseMovesBothTimers := by
  intro s d hfit
  have hsum : (s.delayAccumulator + d).toNat = s.delayAccumulator.toNat + d.toNat := BitVec.toNat_add_of_lt hfit
  refine ⟨?_, ?_, fun hquiet => ?_, fun hsounds => ?_, timerPhase_frame d s⟩
  · rw [timerPhase_delayTimer, toNat_delayDecay_delayTimer, hsum]
  · rw [timerPhase_delayAccumulator, toNat_delayDecay_delayAccumulator, hsum]
  · rw [timerPhase_soundTimer, if_pos hquiet]
  · rw [timerPhase_soundTimer, if_neg hsounds]
    exact BitVec.toNat_add _ _

/-! ## The milliseconds of a call (R150, R153) -/

section
variable {s : State} {d : BitVec 32}

/-- The bound on `d` keeps the accumulator's sum below 2 ^ 32 (R150). -/
theorem toNat_accumulated (ha : s.instructionAccumulator.toNat < 2) (hd : d.toNat ≤ 0xFFFFFFF0) :
    (s.instructionAccumulator + d).toNat = s.instructionAccumulator.toNat + d.toNat :=
  BitVec.toNat_add_of_lt (by omega)

theorem toNat_keepRemainder_instructionAccumulator (d : BitVec 32) (s : State) :
    (keepRemainder d s).instructionAccumulator.toNat = (s.instructionAccumulator + d).toNat % 2 := by
  simp only [keepRemainder, instrPeriodMs, BitVec.toNat_ofNat]
  omega

theorem stepCall_too_long (hs : s.fault = none) (hd : 0xFFFFFFF0 < d.toNat) :
    stepCall d s = .refused .deltaTooLarge := by
  rw [stepCall, if_neg (s.not_halted_iff.2 hs)]
  exact if_pos hd

/-- A call of legal length on a machine that is not halted. -/
theorem stepCall_of_legal (hs : s.fault = none) (hd : d.toNat ≤ 0xFFFFFFF0) :
    stepCall d s = runSlots (slotCount d s) (callPrologue d s) := by
  rw [stepCall, if_neg (s.not_halted_iff.2 hs)]
  exact if_neg (Nat.not_lt.2 hd)

end

/-- Before its first slot a call writes the timers, the accumulators and `loadable`. -/
theorem callPrologue_frame (d : BitVec 32) (s : State) : callPrologue d s = { s with
    delayTimer := (timerPhase d s).delayTimer
    soundTimer := (timerPhase d s).soundTimer
    delayAccumulator := (timerPhase d s).delayAccumulator
    instructionAccumulator := (keepRemainder d s).instructionAccumulator
    loadable := false } :=
  congrArg (fun u => { keepRemainder d u with loadable := false }) (timerPhase_frame d s)

/-- Settles O47, by induction on the calls: what one leaves over the next begins with. -/
theorem slotsLoseNoMillisecond : Obligations.SlotsLoseNoMillisecond := by
  intro ds
  induction ds with
  | nil =>
    intro s ha _
    exact (Nat.div_eq_of_lt ha).symm
  | cons d ds ih =>
    intro s ha hds
    obtain ⟨hd, hrest⟩ := List.forall_mem_cons.1 hds
    have hsum := toNat_accumulated ha hd
    have hleft := toNat_keepRemainder_instructionAccumulator d s
    rw [slotsIssued, ih (keepRemainder d s) (by omega) hrest, totalMs, slotCount, instrPeriodMs]
    omega

/-! ## The slots of a call (R154) -/

section
variable {s t u : State} {n : Nat}

/-- One more slot: its fault ends the call, otherwise the slots left run from its end. -/
theorem runSlots_succ (hu : step s = .next u) (n : Nat) :
    runSlots (n + 1) s = if u.halted then .next u else runSlots n u := by
  rw [runSlots, hu]

theorem runSlots_one (s : State) : runSlots 1 s = step s := by
  cases h : step s with
  | next u => rw [runSlots_succ h, runSlots, ite_self]
  | fault c => rw [runSlots, h]
  | refused r => rw [runSlots, h]

theorem step_of_runSlots_succ (h : runSlots (n + 1) s = .next t) : ∃ u, step s = .next u := by
  cases hu : step s with
  | next u => exact ⟨u, rfl⟩
  | fault c => rw [runSlots, hu] at h; cases h
  | refused r => rw [runSlots, hu] at h; cases h

end

/-- More slots than `m` go on from the state that `m` slots leave, unless it is halted. -/
theorem runSlots_add {m : Nat} (n : Nat) {s t : State} (hs : s.fault = none) (h : runSlots m s = .next t) :
    runSlots (m + n) s = if t.halted then .next t else runSlots n t := by
  induction m generalizing s with
  | zero =>
    cases h
    rw [Nat.zero_add, if_neg ((State.not_halted_iff _).2 hs)]
  | succ m ih =>
    obtain ⟨u, hu⟩ := step_of_runSlots_succ h
    rw [runSlots_succ hu] at h
    rw [Nat.add_right_comm, runSlots_succ hu]
    by_cases hhalted : u.halted = true
    · rw [if_pos hhalted] at h
      cases h
      rw [if_pos hhalted, if_pos hhalted]
    · rw [if_neg hhalted] at h
      rw [if_neg hhalted, ih (u.not_halted_iff.1 hhalted) h]

/-- Settles O48: the two cases of the state in the middle. -/
theorem slotsRunInSequence : Obligations.SlotsRunInSequence := by
  refine fun m n s hs => ⟨fun t h ht => ?_, fun t c h ht => ?_⟩
  · rw [runSlots_add n hs h, if_neg (t.not_halted_iff.2 ht)]
  · rw [runSlots_add n hs h, if_pos (t.halted_iff.2 (by simp [ht]))]

/-- Settles O60: neither sum wraps, and the timer phase does not touch the accumulator of the slots. -/
theorem stepCallRunsTheDueSlots : Obligations.StepCallRunsTheDueSlots := by
  refine ⟨fun s d hs ha hd => ?_, fun s => ⟨rfl, runSlots_one s⟩⟩
  rw [stepCall_of_legal hs hd, slotCount, callPrologue, keepRemainder, timerPhase_instructionAccumulator,
    toNat_accumulated ha hd, instrPeriodMs]

/-- Settles O46: a call that is not too long runs the slots due, here none. -/
theorem shortCallMovesOnlyTheClock : Obligations.ShortCallMovesOnlyTheClock := by
  refine fun s d hs ha => ⟨stepCall_too_long hs, fun hshort => ?_⟩
  have hcall := stepCallRunsTheDueSlots.1 s d hs ha (by omega)
  rw [Nat.div_eq_of_lt hshort, runSlots] at hcall
  refine ⟨_, hcall, ?_, rfl⟩
  rw [BitVec.toNat_ofNat]
  omega

/-! ## Calls and the invariant (R17, R18, R150) -/

/-- The phases before the slots keep each accumulator below its period. -/
theorem State.Inv.call_prologue {s : State} (hs : s.Inv) (d : BitVec 32) : (callPrologue d s).Inv := by
  rw [callPrologue_frame]
  exact { hs with
    delay_small := by
      rw [timerPhase_delayAccumulator, toNat_delayDecay_delayAccumulator]
      exact Nat.mod_lt _ (by decide)
    instr_small := by
      rw [toNat_keepRemainder_instructionAccumulator]
      exact Nat.mod_lt _ (by decide)
    loadable_fresh := nofun }

/-- Every slot of a call keeps the invariant. -/
theorem State.Inv.run_slots {n : Nat} {s t : State} (hs : s.Inv) (h : runSlots n s = .next t) : t.Inv := by
  induction n generalizing s with
  | zero =>
    cases h
    exact hs
  | succ n ih =>
    obtain ⟨u, hu⟩ := step_of_runSlots_succ h
    have hinv : u.Inv := stepKeepsTheInvariant s u hs hu
    rw [runSlots_succ hu] at h
    split at h
    · cases h
      exact hinv
    · exact ih hinv h

theorem State.Inv.step_call {d : BitVec 32} {s t : State} (hs : s.Inv) (h : stepCall d s = .next t) : t.Inv := by
  unfold stepCall at h
  split at h
  · cases h
    exact hs
  · split at h
    · cases h
    · exact (hs.call_prologue d).run_slots h

/-- `pc` is even in the invariant, so a slot of a running machine is not refused (R37). -/
theorem State.Inv.step_answers {s : State} (hs : s.Inv) (hf : s.fault = none) : ∃ t, step s = .next t := by
  cases hi : fetchInstr s with
  | error c => exact ⟨s.halt c, step_of_fetch_error hf hs.pc_even hi⟩
  | ok i =>
    obtain ⟨hrange, hdec⟩ := fetchInstr_ok hi
    obtain ⟨u, hu⟩ := exec_answers i s
    exact ⟨postExecute s.pc u, step_of_exec ⟨hf, ⟨hs.pc_even, hrange⟩, hdec⟩ hu⟩

theorem State.Inv.runSlots_answers (n : Nat) {s : State} (hs : s.Inv) (hf : s.fault = none) :
    ∃ t, runSlots n s = .next t := by
  induction n generalizing s with
  | zero => exact ⟨s, rfl⟩
  | succ n ih =>
    obtain ⟨u, hu⟩ := hs.step_answers hf
    rw [runSlots_succ hu]
    split
    · exact ⟨u, rfl⟩
    · next hran => exact ih (stepKeepsTheInvariant s u hs hu) (u.not_halted_iff.1 hran)

/-- Settles O50: every slot answers and leaves the invariant to the next. -/
theorem callAlwaysReturns : Obligations.CallAlwaysReturns := by
  refine fun s hs => ⟨hs.step_answers, fun d hd => ?_⟩
  by_cases hf : s.fault = none
  · rw [stepCall_of_legal hf hd]
    refine (hs.call_prologue d).runSlots_answers _ ?_
    rw [callPrologue_frame]
    exact hf
  · exact ⟨s, stepCall_of_halted hf d⟩

end Sys2Proof.Machine

/-!
SUPPORT. The host's transactions and the display port (spec 60_exceptions.md R160 to R166): what a load and a key
answer, and that each transaction keeps the invariant.
-/

namespace Sys2Proof.Machine

/-! ## The program load (R163) -/

section
variable {s : State} {bytes : List Byte}

theorem loadProgram_late (h : s.loadable = false ∨ s.fault ≠ none) : loadProgram bytes s = .refused .loadTooLate :=
  if_pos (h.imp_right s.halted_iff.2)

/-- The state that a load leaves. -/
def State.withProgram (s : State) (bytes : List Byte) : State :=
  { s with memory := s.memory.writeBytes Config.programBase bytes, loadable := false }

/-- A load that answers a next state was in time. -/
theorem loadProgram_next {t : State} (h : loadProgram bytes s = .next t) :
    s.loadable = true ∧ t = s.withProgram bytes := by
  unfold loadProgram at h
  split_ifs at h with hlate
  cases h
  exact ⟨eq_true_of_ne_false fun h => hlate (.inl h), rfl⟩

/-- In time, a load is tested for an odd length, then for too many bytes, then for none. -/
theorem loadProgram_in_time (hl : s.loadable = true) (hf : s.fault = none) : loadProgram bytes s =
    if bytes.length % 2 = 1 then .fault (.programOddLength bytes.length)
    else if 3584 < bytes.length then .fault (.programTooLarge bytes.length)
    else if bytes = [] then .refused .emptyProgram
    else .next (s.withProgram bytes) :=
  if_neg (by simp [hl, State.halted, hf])

end

/-- Settles O51: the tests of the load in their order; a program that fits is inside memory, so every byte of it is read
back. -/
theorem programLoadWritesFromBase : Obligations.ProgramLoadWritesFromBase := by
  refine fun s bytes => ⟨fun hl hf hodd => ?_, fun hl hf heven hlarge => ?_, fun hl hf hempty => ?_, loadProgram_late,
    fun hl hf hwf heven hfits hsome => ⟨s.withProgram bytes, ?_, fun k hk => ?_, fun a ha => ?_, rfl⟩⟩
  · rw [loadProgram_in_time hl hf, if_pos hodd]
  · rw [loadProgram_in_time hl hf, if_neg (by omega), if_pos hlarge]
  · rw [hempty, loadProgram_in_time hl hf]
    rfl
  · rw [loadProgram_in_time hl hf, if_neg (by omega), if_neg (by omega), if_neg hsome]
  · have hend : 0x200 + bytes.length ≤ 0x1000 := by omega
    exact Memory.readByte_writeBytes_inside hwf bytes hend hk
  · exact Memory.readByte_writeBytes_outside s.memory bytes ha

/-- A load writes at 0x200 or above, and comes before any wait for a key. -/
theorem State.Inv.load_program {bytes : List Byte} {s t : State} (hs : s.Inv) (h : loadProgram bytes s = .next t) :
    t.Inv := by
  obtain ⟨hl, rfl⟩ := loadProgram_next h
  exact { hs with
    memory_wf := Memory.wf_writeBytes hs.memory_wf _ bytes
    reserved := fun a ha => (Memory.readByte_writeBytes_outside s.memory bytes (.inl ha)).trans (hs.reserved a ha)
    waiting_ldk := fun hw => nomatch (hs.loadable_fresh hl).symm.trans hw
    loadable_fresh := nofun }

/-! ## The key transaction (R164) -/

theorem getLsbD_one_shiftLeft {i : Nat} (hi : i < 16) (j : Nat) : (1#16 <<< i).getLsbD j = decide (i = j) := by
  have h := BitVec.getLsbD_twoPow (w := 16) i j
  rwa [decide_eq_true hi, Bool.true_and] at h

/-- The key word after key `i` moves. -/
def withKey (w : Word) (i : Nat) (pressed : Bool) : Word :=
  if pressed then w ||| (1#16 <<< i) else w &&& ~~~(1#16 <<< i)

theorem getLsbD_withKey_self (w : Word) {i : Nat} (hi : i < 16) (pressed : Bool) :
    (withKey w i pressed).getLsbD i = pressed := by
  cases pressed <;> simp [withKey, getLsbD_one_shiftLeft hi]

theorem getLsbD_withKey_ne (w : Word) {i j : Nat} (hi : i < 16) (pressed : Bool) (hj : j ≠ i) :
    (withKey w i pressed).getLsbD j = w.getLsbD j := by
  cases pressed with
  | true => simp [withKey, getLsbD_one_shiftLeft hi, hj.symm]
  | false => simpa [withKey, getLsbD_one_shiftLeft hi, hj.symm] using BitVec.lt_of_getLsbD

theorem setKeyPressed_of_key {key : Nat} (h : key ≤ 15) (pressed : Bool) (s : State) :
    setKeyPressed key pressed s = .next { s with keyState := withKey s.keyState key pressed } :=
  if_neg (Nat.not_lt.2 h)

theorem setKeyPressed_out_of_range {key : Nat} (h : 15 < key) (pressed : Bool) (s : State) :
    setKeyPressed key pressed s = .refused .keyOutOfRange :=
  if_pos h

/-- Settles O52: the bits of the key word after the write. -/
theorem keyInputWritesOneBit : Obligations.KeyInputWritesOneBit := by
  refine fun s key pressed => ⟨fun hk => ?_, fun hk => setKeyPressed_out_of_range hk pressed s⟩
  have hk16 : key < 16 := Nat.lt_succ_of_le hk
  exact ⟨_, setKeyPressed_of_key hk pressed s, getLsbD_withKey_self s.keyState hk16 pressed,
    fun j => getLsbD_withKey_ne s.keyState hk16 pressed, rfl⟩

/-- The invariant does not mention the keys. -/
theorem State.Inv.set_key {key : Nat} {pressed : Bool} {s t : State} (hs : s.Inv)
    (h : setKeyPressed key pressed s = .next t) : t.Inv := by
  rcases Nat.lt_or_ge 15 key with hk | hk
  · rw [setKeyPressed_out_of_range hk] at h
    cases h
  · rw [setKeyPressed_of_key hk] at h
    cases h
    exact { hs with }

/-! ## Every transaction (R160) -/

/-- Settles O57, transaction by transaction. -/
theorem hostActionsKeepTheInvariant : Obligations.HostActionsKeepTheInvariant := by
  intro a s t hs h
  cases a with
  | load bytes => exact hs.load_program h
  | setKey key pressed => exact hs.set_key h
  | stepMs d => exact hs.step_call h

/-! ## The display port (R122, R166) -/

/-- A bit of a byte by its weight. -/
theorem getLsbD_eq_decide (b : Byte) (i : Nat) : b.getLsbD i = decide (b.toNat / 2 ^ i % 2 = 1) :=
  Nat.testBit_eq_decide_div_mod_eq

theorem pixelPort_inside {x y : Nat} (hx : x < 64) (hy : y < 32) (s : State) :
    pixelPort x y s = .ok (s.display.readPixel ⟨x, hx⟩ ⟨y, hy⟩) := by
  rw [pixelPort, dif_pos hx, dif_pos hy]

theorem pixelPort_outside {x y : Nat} (h : 64 ≤ x ∨ 32 ≤ y) (s : State) :
    pixelPort x y s = .error .pixelOutOfRange := by
  unfold pixelPort
  split_ifs with hx hy
  · omega
  · rfl
  · rfl

/-- Settles O53: the port reads a pixel as the bit of its byte. -/
theorem pixelPortReadsThePackedBit : Obligations.PixelPortReadsThePackedBit := by
  refine fun s x y => ⟨fun hx hy => ?_, fun hout => pixelPort_outside hout s⟩
  rw [pixelPort_inside hx hy, Display.readPixel, getLsbD_eq_decide]

end Sys2Proof.Machine

/-!
SUPPORT. The invariant at reset (spec 70_reset_and_hazards.md R170): with the lemmas for a slot and for a transaction of
the host, the start of every run.
-/

namespace Sys2Proof.Machine

/-- After reset memory lists no cell, so every address reads as its reset contents (log 31). -/
theorem readByte_reset (a : Nat) : State.reset.memory.readByte a = resetByte a := rfl

/-- No stack slot is live after reset. -/
theorem reset_sp : State.reset.sp.val = 0 := rfl

/-- Settles O55, field by field: memory lists no cell, no stack slot is live, no key is awaited. -/
theorem resetSatisfiesTheInvariant : Obligations.ResetSatisfiesTheInvariant where
  memory_wf := reset_memory_wf
  reserved a _ := readByte_reset a
  pc_even := by decide
  pc_range := by decide
  stack_live k _ hlive := by
    rw [reset_sp] at hlive
    exact absurd hlive k.not_lt_zero
  delay_small := by decide
  instr_small := by decide
  waiting_ldk hwait := absurd hwait (by decide)
  loadable_fresh _ := rfl

end Sys2Proof.Machine

/-!
SUPPORT. The opcode map row by row (spec 30_encoding.md R49, R50): a word decodes to the instruction that it encodes.
-/

namespace Sys2Proof.Machine

/-- Decoding as the relation of R55: the word spells the instruction, and some word does. -/
theorem decodeWord_eq_ok_iff {w : Word} {i : Instr} :
    decodeWord w = .ok i ↔ encodeWord i = w ∧ i.WellFormed :=
  ⟨encodeInvertsDecode w i, fun ⟨hw, hwf⟩ => hw ▸ decodeWord_encodeWord hwf⟩

/-- Settles O1: each listed word is the encoding of its instruction, and `0x5121` is on the list of R51, top nibble 5 with
last nibble 1. -/
theorem decodesTheListedWords : Obligations.DecodesTheListedWords := by
  have hill : illegalWord 0x5121#16 := (illegalWord_iff_fields _).2 (.inl ⟨rfl, by decide⟩)
  unfold Obligations.DecodesTheListedWords
  repeat refine ⟨decodeWord_eq_ok_iff.2 ⟨rfl, rfl⟩, ?_⟩
  exact (decodeWord_answer _).eq_error hill

end Sys2Proof.Machine
